-- ==== Sys2Proof/Word.lean ====
section
/-! DEFINITION. The block's words and its closed value types: bytes and 16-bit fields (R11, R22), the framer's two
states (R16), the values a command carries (R22, R23), the error kinds (R24), the output events (R25), the parser's
outcome (R71), the framer's result (R61), the input events (R39) and the three encoding formats of the opcode table. -/

namespace Sys2Proof

/-- A byte: an unsigned 8-bit value (R11). -/
abbrev Byte := BitVec 8

/-- A 16-bit unsigned field: a coordinate or a magnitude (R22). -/
abbrev Half := BitVec 16

/-- `FSTATE`, the framer-state register: exactly two states (R15, R16). -/
inductive FState where
  | normal
  | escaped
  deriving DecidableEq, Repr

/-- `Position`: two unsigned 16-bit coordinates (R22). -/
structure Position where
  x : Half
  y : Half
  deriving DecidableEq, Repr

/-- `Size`: two unsigned 16-bit magnitudes (R22). -/
structure Size where
  width : Half
  height : Half
  deriving DecidableEq, Repr

/-- `Colour`: three unsigned 8-bit channels, no alpha; equality is exact byte equality (R22). -/
structure Colour where
  r : Byte
  g : Byte
  b : Byte
  deriving DecidableEq, Repr

/-- `Command`, the closed set of four variants, one per wire command (R23). -/
inductive Command where
  | drawRectangle (pos : Position) (size : Size) (colour : Colour)
  | drawCharacter (code : Byte) (pos : Position) (foreground background : Colour)
  | drawOscilloscopeWaveform (colour : Colour) (samples : List Byte)
  | systemInfo (hardwareType major minor patch fontMode : Byte)
  deriving DecidableEq, Repr

/-- `ErrorEvent`, the closed set of seven error kinds with their payloads (R24, R98). -/
inductive ErrorEvent where
  | bufferOverflow
  | unknownEscapedByte (b : Byte)
  | rectangleInvalidFormat
  | characterInvalidFormat
  | waveformInvalidFormat
  | systemInfoInvalidFormat
  | unrecognizedCommand (tag : Byte)
  deriving DecidableEq, Repr

/-- `OutEvent`, one element of a step's output list (R25). -/
inductive OutEvent where
  | cmd (c : Command)
  | err (e : ErrorEvent)
  deriving DecidableEq, Repr

/-- What one parse yields: a command, nothing at all, or an error (R71, D10). -/
inductive ParseOutcome where
  | cmd (c : Command)
  | ignored
  | err (e : ErrorEvent)
  deriving DecidableEq, Repr

/-- What the framer yields for one byte: nothing, one packet, or one error (R61, R90). -/
inductive FeedResult where
  | nothing
  | packet (p : List Byte)
  | error (e : ErrorEvent)
  deriving DecidableEq, Repr

/-- The three input events (R39). -/
inductive Input where
  | reset
  | cycleStart
  | byte (b : Byte)
  deriving DecidableEq, Repr

/-- An instruction as it is encoded, in one of the three formats of `opcode_table.json`: an input event (R39), the
framer's 9-bit decode key `{FSTATE, b}` (R41), or a packet (R44). -/
inductive Code where
  | event (e : Input)
  | key (k : BitVec 9)
  | packet (p : List Byte)
  deriving DecidableEq, Repr

end Sys2Proof
end

