-- ==== Sys2Proof/Machine/Constants.lean ====
section
/-! DEFINITION. The fixed constants of the block: wire bytes, command tags and packet lengths (R9, R40, R43). They are
not parameters. -/

namespace Sys2Proof

/-- `FRAME_END` (R40). -/
def frameEnd : Byte := 0xC0
/-- `FRAME_ESC` (R40). -/
def frameEsc : Byte := 0xDB
/-- `FRAME_ESC_END` (R40). -/
def frameEscEnd : Byte := 0xDC
/-- `FRAME_ESC_ESC` (R40). -/
def frameEscEsc : Byte := 0xDD

/-- `TAG_KEYPRESS` (R9, R43). -/
def tagKeypress : Byte := 0xFB
/-- `TAG_WAVEFORM` (R9, R43). -/
def tagWaveform : Byte := 0xFC
/-- `TAG_CHARACTER` (R9, R43). -/
def tagCharacter : Byte := 0xFD
/-- `TAG_RECTANGLE` (R9, R43). -/
def tagRectangle : Byte := 0xFE
/-- `TAG_SYSINFO` (R9, R43). -/
def tagSysinfo : Byte := 0xFF

/-- The accepted lengths of a waveform packet, `4..=484` (R45; 90_conflicts.md C1). -/
def waveLengthOk (n : Nat) : Bool := 4 ≤ n && n ≤ 484
/-- The accepted length of a character packet (R46). -/
def charLengthOk (n : Nat) : Bool := n == 12
/-- The accepted lengths of a rectangle packet, `5`, `8`, `9` and `12` (R47 to R50, R54). -/
def rectLengthOk (n : Nat) : Bool := n == 5 || n == 8 || n == 9 || n == 12
/-- The accepted lengths of a system-info packet, at least `6` (R51). -/
def sysinfoLengthOk (n : Nat) : Bool := 6 ≤ n

/-- The five tags the parser knows (R43, R56). -/
def knownTag (t : Byte) : Bool :=
  t == tagKeypress || t == tagWaveform || t == tagCharacter || t == tagRectangle || t == tagSysinfo

end Sys2Proof
end

