-- ==== Sys2Proof/Machine/Operands.lean ====
section
/-! DEFINITION. Every operand form of the block: how a field is read from a packet (R13, R29, R30, R53), the constant
size of the short rectangles (R22), and the inverse, how a field is laid out in a packet, which the encoder uses. -/

namespace Sys2Proof

/-- `p[i]`, the byte at zero-based offset `i` (R12). Every form checks the length before it reads, so no read is ever
out of bounds (R28) and the value given for such a read is never used (log entry 17). -/
def byteAt (p : List Byte) (i : Nat) : Byte := p.getD i 0

/-- `le16(p, i)`: the byte at the lower offset is the low byte (R13, R29). -/
def le16 (p : List Byte) (i : Nat) : Half :=
  (byteAt p i).setWidth 16 ||| ((byteAt p (i + 1)).setWidth 16 <<< 8)

/-- `rgb(p, i)`: `r`, `g`, `b` at ascending offsets (R13, R30, D7). -/
def rgb (p : List Byte) (i : Nat) : Colour := ⟨byteAt p i, byteAt p (i + 1), byteAt p (i + 2)⟩

/-- The two coordinates read from offset `i` on (R46 to R50). -/
def posAt (p : List Byte) (i : Nat) : Position := ⟨le16 p i, le16 p (i + 2)⟩

/-- The two magnitudes read from offset `i` on (R49, R50). -/
def sizeAt (p : List Byte) (i : Nat) : Size := ⟨le16 p i, le16 p (i + 2)⟩

/-- `p[i..|p|]`, a packet's bytes from offset `i` on (R12): the samples of a waveform (R45). -/
def bytesFrom (p : List Byte) (i : Nat) : List Byte := p.drop i

/-- The default size of a rectangle, `1×1` (R9, R22). -/
def defaultSize : Size := ⟨1, 1⟩

/-- A 16-bit field as two packet bytes, low byte first (R29, R59). -/
def halfBytes (v : Half) : List Byte := [v.extractLsb' 0 8, v.extractLsb' 8 8]

/-- A colour as three packet bytes (R30). -/
def colourBytes (c : Colour) : List Byte := [c.r, c.g, c.b]

/-- A position as four packet bytes. -/
def posBytes (q : Position) : List Byte := halfBytes q.x ++ halfBytes q.y

/-- A size as four packet bytes. -/
def sizeBytes (z : Size) : List Byte := halfBytes z.width ++ halfBytes z.height

/-- The register image of a colour: `r` in `[23:16]`, `g` in `[15:8]`, `b` in `[7:0]` (R19, D13). -/
def Colour.image (c : Colour) : BitVec 24 := c.r ++ c.g ++ c.b

/-- The width of `LEN` in bits, `ceil(log2(CAP + 1))` (R18, D13). -/
def lenWidth (cap : Nat) : Nat := Nat.clog 2 (cap + 1)

/-- The wire tag that identifies a command variant (R23, D12). -/
def Command.tag : Command → Byte
  | .drawRectangle _ _ _ => tagRectangle
  | .drawCharacter _ _ _ _ => tagCharacter
  | .drawOscilloscopeWaveform _ _ => tagWaveform
  | .systemInfo _ _ _ _ _ => tagSysinfo

/-- A waveform carries 0 to 480 samples; the other variants are bounded by their types (R23). -/
def Command.ok : Command → Bool
  | .drawRectangle _ _ _ => true
  | .drawCharacter _ _ _ _ => true
  | .drawOscilloscopeWaveform _ samples => samples.length ≤ 480
  | .systemInfo _ _ _ _ _ => true

/-- The numeric code of an error kind (R98, D11). -/
def ErrorEvent.code : ErrorEvent → Nat
  | .bufferOverflow => 1
  | .unknownEscapedByte _ => 2
  | .rectangleInvalidFormat => 3
  | .characterInvalidFormat => 4
  | .waveformInvalidFormat => 5
  | .systemInfoInvalidFormat => 6
  | .unrecognizedCommand _ => 7

/-- The byte an error event carries, where its kind carries one (R24, R98). -/
def ErrorEvent.payload : ErrorEvent → Option Byte
  | .bufferOverflow => none
  | .unknownEscapedByte b => some b
  | .rectangleInvalidFormat => none
  | .characterInvalidFormat => none
  | .waveformInvalidFormat => none
  | .systemInfoInvalidFormat => none
  | .unrecognizedCommand tag => some tag

/-- Whether the framer (and not the parser) raises the kind (R98). -/
def ErrorEvent.fromFramer : ErrorEvent → Bool
  | .bufferOverflow => true
  | .unknownEscapedByte _ => true
  | .rectangleInvalidFormat => false
  | .characterInvalidFormat => false
  | .waveformInvalidFormat => false
  | .systemInfoInvalidFormat => false
  | .unrecognizedCommand _ => false

/-- The command an output event carries, if it is a `Cmd` (R25). -/
def OutEvent.command : OutEvent → Option Command
  | .cmd c => some c
  | .err _ => none

/-- The commands of an event list, in order (R93, R116). -/
def commandsOf (t : List OutEvent) : List Command := t.filterMap OutEvent.command

end Sys2Proof
end

