-- ==== Sys2Proof/Machine/Flags.lean ====
section
/-! DEFINITION. The block's one flag, `FSTATE` (R16, R21): its bit encoding (D13) and the framer's decode key
`K = {FSTATE, b[7:0]}` (R41). No arithmetic or condition flag exists. -/

namespace Sys2Proof

/-- `FSTATE` as a bit: `0` = Normal, `1` = Escaped (R16). -/
def FState.bit : FState → BitVec 1
  | .normal => 0
  | .escaped => 1

/-- The framer state a bit stands for (R16). -/
def FState.ofBit (v : BitVec 1) : FState := if v = 0 then .normal else .escaped

/-- The decode key of byte `b` in framer state `f`: `K[8]` is `FSTATE` and `K[7:0]` is the byte (R41). -/
def framerKey (f : FState) (b : Byte) : BitVec 9 := f.bit ++ b

/-- `K[8]` as a framer state (R41). -/
def keyState (k : BitVec 9) : FState := FState.ofBit (k.extractLsb' 8 1)

/-- `K[7:0]` (R41). -/
def keyByte (k : BitVec 9) : Byte := k.extractLsb' 0 8

end Sys2Proof
end

