-- ==== Sys2Proof/Syntax.lean ====
section
/-! DEFINITION. The instructions of the block (R2): one constructor per row of `opcode_table.json`. The operands of a
row are the fields its rule gives it. A form whose rule reads no field keeps the packet's bytes after the tag, so that
an instruction determines its packet (R44) and the encoder is the decoder's inverse. -/

namespace Sys2Proof

/-- The 23 rows of the opcode table: the three input events (R39), the six rows of the framer's decode table (R42) and
the fourteen rows of the packet decode map (R55). -/
inductive Instr where
  /-- `RESET` (R92). -/
  | reset
  /-- `CYCLE_START` (R91). -/
  | cycleStart
  /-- `BYTE` (R90). -/
  | byte (b : Byte)
  /-- `FRM_END` (R63). -/
  | frmEnd
  /-- `FRM_ESC` (R64). -/
  | frmEsc
  /-- `FRM_DATA` (R65). -/
  | frmData (b : Byte)
  /-- `FRM_XEND` (R66). -/
  | frmXend
  /-- `FRM_XESC` (R67). -/
  | frmXesc
  /-- `FRM_XBAD` (R68). -/
  | frmXbad (b : Byte)
  /-- `CMD_EMPTY` (R73). -/
  | cmdEmpty
  /-- `CMD_WAVE` (R45, R74). -/
  | cmdWave (colour : Colour) (samples : List Byte)
  /-- `CMD_WAVE_BADLEN` (R75). -/
  | cmdWaveBadlen (rest : List Byte)
  /-- `CMD_CHAR` (R46, R76). -/
  | cmdChar (code : Byte) (pos : Position) (foreground background : Colour)
  /-- `CMD_CHAR_BADLEN` (R77). -/
  | cmdCharBadlen (rest : List Byte)
  /-- `CMD_RECT5` (R47, R78). -/
  | cmdRect5 (pos : Position)
  /-- `CMD_RECT8` (R48, R79). -/
  | cmdRect8 (pos : Position) (colour : Colour)
  /-- `CMD_RECT9` (R49, R80). -/
  | cmdRect9 (pos : Position) (size : Size)
  /-- `CMD_RECT12` (R50, R81). -/
  | cmdRect12 (pos : Position) (size : Size) (colour : Colour)
  /-- `CMD_RECT_BADLEN` (R82). -/
  | cmdRectBadlen (rest : List Byte)
  /-- `CMD_SYSINFO` (R51, R83); `rest` is the bytes at offset 6 and above, which no rule reads. -/
  | cmdSysinfo (hardwareType major minor patch fontMode : Byte) (rest : List Byte)
  /-- `CMD_SYSINFO_BADLEN` (R84). -/
  | cmdSysinfoBadlen (rest : List Byte)
  /-- `CMD_KEYPRESS` (R52, R85). -/
  | cmdKeypress (rest : List Byte)
  /-- `CMD_UNRECOGNIZED` (R86). -/
  | cmdUnrecognized (tag : Byte) (rest : List Byte)
  deriving DecidableEq, Repr

end Sys2Proof
end

