-- ==== Sys2Proof/WellFormed.lean ====
section
/-! DEFINITION. Which instructions are well formed: the conditions that the framer's decode table (R42) and the packet
decode map (R55) put on a row's operands. `1 + rest.length` is the packet's length `n`, tag included. -/

namespace Sys2Proof

/-- The condition a row's operands meet (R42, R55). -/
def Instr.wf : Instr → Bool
  | .reset => true
  | .cycleStart => true
  | .byte _ => true
  | .frmEnd => true
  | .frmEsc => true
  | .frmData b => b != frameEnd && b != frameEsc
  | .frmXend => true
  | .frmXesc => true
  | .frmXbad b => b != frameEscEnd && b != frameEscEsc
  | .cmdEmpty => true
  | .cmdWave _ samples => waveLengthOk (4 + samples.length)
  | .cmdWaveBadlen rest => !waveLengthOk (1 + rest.length)
  | .cmdChar _ _ _ _ => true
  | .cmdCharBadlen rest => !charLengthOk (1 + rest.length)
  | .cmdRect5 _ => true
  | .cmdRect8 _ _ => true
  | .cmdRect9 _ _ => true
  | .cmdRect12 _ _ _ => true
  | .cmdRectBadlen rest => !rectLengthOk (1 + rest.length)
  | .cmdSysinfo _ _ _ _ _ rest => sysinfoLengthOk (6 + rest.length)
  | .cmdSysinfoBadlen rest => !sysinfoLengthOk (1 + rest.length)
  | .cmdKeypress _ => true
  | .cmdUnrecognized tag _ => !knownTag tag

end Sys2Proof
end

