-- ==== Sys2Proof/Decode.lean ====
section
/-! DEFINITION. The decoder and the encoder of the three formats of the opcode table (R39, R42, R55), the framing of a
payload for the wire (R60), and the host's reading of a table word. Decoding is total: every input event, every 9-bit
key and every packet matches exactly one row (R42, R55), so nothing is rejected; an illegal packet or escape decodes
to the row whose effect is its error event (R56, R57). -/

namespace Sys2Proof

/-- An input event is its own row (R39). -/
def decodeEvent : Input → Instr
  | .reset => .reset
  | .cycleStart => .cycleStart
  | .byte b => .byte b

/-- The framer decode table (R42), rows in the order given. -/
def decodeKey (k : BitVec 9) : Instr :=
  match keyState k with
  | .normal =>
    if keyByte k = frameEnd then .frmEnd
    else if keyByte k = frameEsc then .frmEsc
    else .frmData (keyByte k)
  | .escaped =>
    if keyByte k = frameEscEnd then .frmXend
    else if keyByte k = frameEscEsc then .frmXesc
    else .frmXbad (keyByte k)

/-- The packet decode map (R55), rows in the order given, with the field offsets of R45 to R52. -/
def decodePacket (p : List Byte) : Instr :=
  if p.length = 0 then .cmdEmpty
  else if byteAt p 0 = tagWaveform then
    if waveLengthOk p.length then .cmdWave (rgb p 1) (bytesFrom p 4)
    else .cmdWaveBadlen (bytesFrom p 1)
  else if byteAt p 0 = tagCharacter then
    if charLengthOk p.length then .cmdChar (byteAt p 1) (posAt p 2) (rgb p 6) (rgb p 9)
    else .cmdCharBadlen (bytesFrom p 1)
  else if byteAt p 0 = tagRectangle then
    if p.length = 5 then .cmdRect5 (posAt p 1)
    else if p.length = 8 then .cmdRect8 (posAt p 1) (rgb p 5)
    else if p.length = 9 then .cmdRect9 (posAt p 1) (sizeAt p 5)
    else if p.length = 12 then .cmdRect12 (posAt p 1) (sizeAt p 5) (rgb p 9)
    else .cmdRectBadlen (bytesFrom p 1)
  else if byteAt p 0 = tagSysinfo then
    if sysinfoLengthOk p.length then
      .cmdSysinfo (byteAt p 1) (byteAt p 2) (byteAt p 3) (byteAt p 4) (byteAt p 5) (bytesFrom p 6)
    else .cmdSysinfoBadlen (bytesFrom p 1)
  else if byteAt p 0 = tagKeypress then .cmdKeypress (bytesFrom p 1)
  else .cmdUnrecognized (byteAt p 0) (bytesFrom p 1)

/-- The instruction a code stands for. -/
def decode : Code → Instr
  | .event e => decodeEvent e
  | .key k => decodeKey k
  | .packet p => decodePacket p

/-- The code of an instruction, from the same tables: R39, R42 and the layouts of R45 to R52. -/
def encode : Instr → Code
  | .reset => .event .reset
  | .cycleStart => .event .cycleStart
  | .byte b => .event (.byte b)
  | .frmEnd => .key 0x0C0
  | .frmEsc => .key 0x0DB
  | .frmData b => .key (framerKey .normal b)
  | .frmXend => .key 0x1DC
  | .frmXesc => .key 0x1DD
  | .frmXbad b => .key (framerKey .escaped b)
  | .cmdEmpty => .packet []
  | .cmdWave c samples => .packet (tagWaveform :: (colourBytes c ++ samples))
  | .cmdWaveBadlen rest => .packet (tagWaveform :: rest)
  | .cmdChar code pos fg bg => .packet (tagCharacter :: code :: (posBytes pos ++ colourBytes fg ++ colourBytes bg))
  | .cmdCharBadlen rest => .packet (tagCharacter :: rest)
  | .cmdRect5 pos => .packet (tagRectangle :: posBytes pos)
  | .cmdRect8 pos c => .packet (tagRectangle :: (posBytes pos ++ colourBytes c))
  | .cmdRect9 pos size => .packet (tagRectangle :: (posBytes pos ++ sizeBytes size))
  | .cmdRect12 pos size c => .packet (tagRectangle :: (posBytes pos ++ sizeBytes size ++ colourBytes c))
  | .cmdRectBadlen rest => .packet (tagRectangle :: rest)
  | .cmdSysinfo hw major minor patch font rest => .packet (tagSysinfo :: hw :: major :: minor :: patch :: font :: rest)
  | .cmdSysinfoBadlen rest => .packet (tagSysinfo :: rest)
  | .cmdKeypress rest => .packet (tagKeypress :: rest)
  | .cmdUnrecognized tag rest => .packet (tag :: rest)

/-- One payload byte as wire bytes (R60). -/
def escapeByte (v : Byte) : List Byte :=
  if v = frameEnd then [frameEsc, frameEscEnd]
  else if v = frameEsc then [frameEsc, frameEscEsc]
  else [v]

/-- `escape(P)` (R60). -/
def escape (payload : List Byte) : List Byte := payload.flatMap escapeByte

/-- `frame(P) = escape(P) ++ [0xC0]`, the wire stream that sends one payload (R60). -/
def frame (payload : List Byte) : List Byte := escape payload ++ [frameEnd]

/-- The inputs of one processing cycle over the raw bytes of one read (R39, R93). -/
def cycleInputs (raw : List Byte) : List Input := .cycleStart :: raw.map .byte

/-- The `n` bytes of a number, least significant first. -/
def bytesOfNat : Nat → Nat → List Byte
  | 0, _ => []
  | n + 1, w => BitVec.ofNat 8 (w % 256) :: bytesOfNat n (w / 256)

/-- A word of the opcode table as a code (log entry 6). The table gives a framer row a 9-bit key, which is two whole
bytes, and a packet row the 8 bits of its tag, whose further bytes are zeros: the packet is padded to 12 bytes, the
longest form of fixed length. A row to which the table gives no bits has no word. -/
def tableCode (nbits w : Nat) : Option Code :=
  if nbits = 9 ∨ nbits = 16 then
    if w < 512 then some (.key (BitVec.ofNat 9 w)) else none
  else if 0 < nbits ∧ nbits % 8 = 0 then
    some (.packet (bytesOfNat (max 12 (nbits / 8)) (w % 2 ^ nbits)))
  else none

/-- The instruction the decoder reads from a table word. -/
def decodeTableWord (nbits w : Nat) : Option Instr := (tableCode nbits w).map decode

end Sys2Proof
end

