-- ==== Sys2Proof/Config.lean ====
section
/-! DEFINITION. The two implementation parameters of the block, `CAP` (R7) and `RESET_COLOUR` (R8), as one record.
They are fixed for the life of a session. The record is a field of State that no instruction writes, so that every
statement quantifies over both (R7, R8, 93_implementation_defined.md U1 and U2). See log entry 3. -/

namespace Sys2Proof

/-- The session parameters (R7, R8). -/
structure Params where
  /-- `CAP`, the capacity of the accumulation buffer in bytes. -/
  cap : Nat
  /-- `RESET_COLOUR`, the initial and reset value of the colour context. -/
  resetColour : Colour
  deriving DecidableEq, Repr

/-- `CAP >= 1` (R7, D3). -/
abbrev Params.ok (p : Params) : Prop := 1 ≤ p.cap

/-- This hardware's parameters: `CAP = 1024` (R7) and black (R8, D4). -/
def Params.reference : Params where
  cap := 1024
  resetColour := ⟨0x00, 0x00, 0x00⟩

end Sys2Proof
end

