-- ==== Sys2Proof/Machine/State.lean ====
section
/-! DEFINITION. The state of the block (R15): `FSTATE`, `BUF`, `COLOUR`, `CMDS` and the two fixed parameters; beside
them the model's two own fields, the inputs the host has supplied and the run's event trace (R89). `LEN` is the length
of `BUF` and no state of its own (R18). -/

namespace Sys2Proof.Machine

/-- The block's state (R15), plain data. -/
structure State where
  /-- `CAP` and `RESET_COLOUR`, fixed for the life of the session (R7, R8, R15). -/
  params : Params
  /-- `FSTATE` (R16). -/
  fstate : FState
  /-- `BUF`, the bytes at offsets `0` to `LEN - 1` (R17, R18, R27). -/
  buf : List Byte
  /-- `COLOUR`, the colour-context register (R19). -/
  colour : Colour
  /-- `CMDS`, the commands of the current cycle, in arrival order (R20). -/
  cmds : List Command
  /-- The model's own: the inputs the host has supplied and the block has not yet consumed (R35, R89; log entry 1). -/
  inputs : List Input
  /-- The model's own: the run's event trace, the concatenation of the steps' outputs (R25, R89; log entry 2). -/
  trace : List OutEvent
  deriving DecidableEq, Repr

/-- The reasons a step can stop with a fault: none. Every input has a defined result (R89,
93_implementation_defined.md §1), so the type has no constructor and no step can fault. Safe. -/
inductive Fault where
  deriving DecidableEq, Repr

/-- The reasons a step can be refused. -/
inductive Refusal where
  /-- Raised only by an arm of `exec` whose instruction has no meaning yet; no arm is so in this model. Safe. -/
  | notModelled (mnemonic : String)
  deriving DecidableEq, Repr

/-- The state right after construction with parameters `p`: the reset values of R16 to R20 (R113), no input supplied
and no event emitted. -/
def State.construct (p : Params) : State where
  params := p
  fstate := .normal
  buf := []
  colour := p.resetColour
  cmds := []
  inputs := []
  trace := []

/-- The machine right after reset, with this hardware's parameters (R113, R114). -/
def State.reset : State := State.construct Params.reference

end Sys2Proof.Machine
end

