-- ==== Sys2Proof/Machine/Ops.lean ====
section
/-! DEFINITION. The named operations over the block's state, which every meaning is written with: the register writes,
the output list, the capacity-checked append (R62), the framer's error recovery (R106), applying a parse's outcome
(R90), and taking the next input (R89). Raising an error is the block's analogue of taking an exception: it transfers
no control and has no return (R14, R106, R107). -/

namespace Sys2Proof.Machine

/-- `FSTATE <- f`. -/
def State.setFstate (f : FState) (s : State) : State := { s with fstate := f }
/-- `BUF <- p`. -/
def State.setBuf (p : List Byte) (s : State) : State := { s with buf := p }
/-- `COLOUR <- c`. -/
def State.setColour (c : Colour) (s : State) : State := { s with colour := c }
/-- `CMDS <- l`. -/
def State.setCmds (l : List Command) (s : State) : State := { s with cmds := l }
/-- The inputs still to be consumed. -/
def State.setInputs (l : List Input) (s : State) : State := { s with inputs := l }
/-- An event goes on the output list (R14, R25). -/
def State.emit (e : OutEvent) (s : State) : State := { s with trace := s.trace ++ [e] }

/-- `LEN`, the fill counter of `BUF` (R18). -/
def State.len (s : State) : Nat := s.buf.length

/-- The byte of `BUF` at an offset; offsets from `LEN` on hold nothing (R18, R27). -/
def State.bufAt (i : Nat) (s : State) : Option Byte := s.buf[i]?

/-- `raise Err(e)`: the error event goes on the output list and nothing else happens (R14, R106). -/
def State.raise (e : ErrorEvent) (s : State) : State := s.emit (.err e)

/-- A framer error: `BUF <- []`, `FSTATE <- Normal`, and the error to be raised (R62, R68, R106). -/
def framerError (e : ErrorEvent) (s : State) : State × FeedResult :=
  ((s.setBuf []).setFstate .normal, .error e)

/-- `append(v)`, the capacity-checked buffer write (R62). -/
def append (v : Byte) (s : State) : State × FeedResult :=
  if s.len = s.params.cap then framerError .bufferOverflow s
  else (s.setBuf (s.buf ++ [v]), .nothing)

/-- What the decoder does with a parse's outcome and new colour context: `COLOUR <- C'`, a command is appended to
`CMDS` and emitted, an error is raised (R90). -/
def State.deliver (r : ParseOutcome × Colour) (s : State) : State :=
  match r.1 with
  | .cmd c => ((s.setColour r.2).setCmds (s.cmds ++ [c])).emit (.cmd c)
  | .ignored => s.setColour r.2
  | .err e => (s.setColour r.2).raise e

/-- The next input and the state once it is taken; nothing where the host has supplied no further one (R89, R97). -/
def State.fetch (s : State) : Option (Input × State) :=
  match s.inputs with
  | [] => none
  | e :: es => some (e, s.setInputs es)

/-- The state in which the next step runs the instruction a code stands for (log entry 7): an input event is the next
input; a key is a byte as the next input, in the key's framer state; a packet stands in `BUF` and the frame end that
hands it to the parser is the next input. -/
def State.present : Code → State → State
  | .event e, s => s.setInputs (e :: s.inputs)
  | .key k, s => (s.setFstate (keyState k)).setInputs (.byte (keyByte k) :: s.inputs)
  | .packet p, s => ((s.setFstate .normal).setBuf p).setInputs (.byte frameEnd :: s.inputs)

end Sys2Proof.Machine
end

