-- ==== Sys2Proof/Machine/Parser.lean ====
section
/-! DEFINITION. The command parser (41_command_parser.md): one outcome per packet form (R73 to R86), the dispatch
procedure (R72), and the meanings of the CMD rows. An outcome is a pair `(outcome, C')` (R71). -/

namespace Sys2Proof.Machine

/-- `(Err(e), C)`: an error keeps the colour context (R71, R87). -/
def parseError (e : ErrorEvent) (C : Colour) : ParseOutcome × Colour := (.err e, C)

/-- `CMD_EMPTY` (R73; 90_conflicts.md C2). -/
def parseEmpty (C : Colour) : ParseOutcome × Colour := parseError .rectangleInvalidFormat C
/-- `CMD_WAVE` (R74). -/
def parseWave (colour : Colour) (samples : List Byte) (C : Colour) : ParseOutcome × Colour :=
  (.cmd (.drawOscilloscopeWaveform colour samples), C)
/-- `CMD_WAVE_BADLEN` (R75). -/
def parseWaveBadlen (C : Colour) : ParseOutcome × Colour := parseError .waveformInvalidFormat C
/-- `CMD_CHAR` (R76). -/
def parseChar (code : Byte) (pos : Position) (fg bg : Colour) (C : Colour) : ParseOutcome × Colour :=
  (.cmd (.drawCharacter code pos fg bg), C)
/-- `CMD_CHAR_BADLEN` (R77). -/
def parseCharBadlen (C : Colour) : ParseOutcome × Colour := parseError .characterInvalidFormat C
/-- `CMD_RECT5`: the colour context is read and unchanged (R78). -/
def parseRect5 (pos : Position) (C : Colour) : ParseOutcome × Colour :=
  (.cmd (.drawRectangle pos defaultSize C), C)
/-- `CMD_RECT8`: the command carries the new colour and `C'` is it (R79). -/
def parseRect8 (pos : Position) (col : Colour) (_C : Colour) : ParseOutcome × Colour :=
  (.cmd (.drawRectangle pos defaultSize col), col)
/-- `CMD_RECT9`: the colour context is read and unchanged (R80). -/
def parseRect9 (pos : Position) (size : Size) (C : Colour) : ParseOutcome × Colour :=
  (.cmd (.drawRectangle pos size C), C)
/-- `CMD_RECT12`: the command carries the new colour and `C'` is it (R81). -/
def parseRect12 (pos : Position) (size : Size) (col : Colour) (_C : Colour) : ParseOutcome × Colour :=
  (.cmd (.drawRectangle pos size col), col)
/-- `CMD_RECT_BADLEN` (R82). -/
def parseRectBadlen (C : Colour) : ParseOutcome × Colour := parseError .rectangleInvalidFormat C
/-- `CMD_SYSINFO` (R83). -/
def parseSysinfo (hw major minor patch font : Byte) (C : Colour) : ParseOutcome × Colour :=
  (.cmd (.systemInfo hw major minor patch font), C)
/-- `CMD_SYSINFO_BADLEN` (R84; 90_conflicts.md C8). -/
def parseSysinfoBadlen (C : Colour) : ParseOutcome × Colour := parseError .systemInfoInvalidFormat C
/-- `CMD_KEYPRESS`: no command and no error (R85, D9). -/
def parseKeypress (C : Colour) : ParseOutcome × Colour := (.ignored, C)
/-- `CMD_UNRECOGNIZED` (R86). -/
def parseUnrecognized (tag : Byte) (C : Colour) : ParseOutcome × Colour := parseError (.unrecognizedCommand tag) C

/-- `parse(p, C)`, the dispatch procedure of R72: the empty check, then the tag, then the length, then the fields. -/
def parse (p : List Byte) (C : Colour) : ParseOutcome × Colour :=
  if p.length = 0 then parseEmpty C
  else if byteAt p 0 = tagWaveform then
    if waveLengthOk p.length then parseWave (rgb p 1) (bytesFrom p 4) C else parseWaveBadlen C
  else if byteAt p 0 = tagCharacter then
    if charLengthOk p.length then parseChar (byteAt p 1) (posAt p 2) (rgb p 6) (rgb p 9) C else parseCharBadlen C
  else if byteAt p 0 = tagRectangle then
    if p.length = 5 then parseRect5 (posAt p 1) C
    else if p.length = 8 then parseRect8 (posAt p 1) (rgb p 5) C
    else if p.length = 9 then parseRect9 (posAt p 1) (sizeAt p 5) C
    else if p.length = 12 then parseRect12 (posAt p 1) (sizeAt p 5) (rgb p 9) C
    else parseRectBadlen C
  else if byteAt p 0 = tagSysinfo then
    if sysinfoLengthOk p.length then
      parseSysinfo (byteAt p 1) (byteAt p 2) (byteAt p 3) (byteAt p 4) (byteAt p 5) C
    else parseSysinfoBadlen C
  else if byteAt p 0 = tagKeypress then parseKeypress C
  else parseUnrecognized (byteAt p 0) C

/-- The packet `p` is parsed with the current colour context and the outcome applied, in the same step (R90, R37). -/
def State.parsePacket (p : List Byte) (s : State) : State := s.deliver (parse p s.colour)

/-- `CMD_EMPTY` (R73). -/
def execCmdEmpty (s : State) : Host.Outcome State Fault Refusal := .next (s.deliver (parseEmpty s.colour))

/-- `CMD_WAVE` (R74). -/
def execCmdWave (colour : Colour) (samples : List Byte) (s : State) : Host.Outcome State Fault Refusal :=
  .next (s.deliver (parseWave colour samples s.colour))

/-- `CMD_WAVE_BADLEN` (R75). -/
def execCmdWaveBadlen (_rest : List Byte) (s : State) : Host.Outcome State Fault Refusal :=
  .next (s.deliver (parseWaveBadlen s.colour))

/-- `CMD_CHAR` (R76). -/
def execCmdChar (code : Byte) (pos : Position) (fg bg : Colour) (s : State) : Host.Outcome State Fault Refusal :=
  .next (s.deliver (parseChar code pos fg bg s.colour))

/-- `CMD_CHAR_BADLEN` (R77). -/
def execCmdCharBadlen (_rest : List Byte) (s : State) : Host.Outcome State Fault Refusal :=
  .next (s.deliver (parseCharBadlen s.colour))

/-- `CMD_RECT5` (R78). -/
def execCmdRect5 (pos : Position) (s : State) : Host.Outcome State Fault Refusal :=
  .next (s.deliver (parseRect5 pos s.colour))

/-- `CMD_RECT8` (R79). -/
def execCmdRect8 (pos : Position) (col : Colour) (s : State) : Host.Outcome State Fault Refusal :=
  .next (s.deliver (parseRect8 pos col s.colour))

/-- `CMD_RECT9` (R80). -/
def execCmdRect9 (pos : Position) (size : Size) (s : State) : Host.Outcome State Fault Refusal :=
  .next (s.deliver (parseRect9 pos size s.colour))

/-- `CMD_RECT12` (R81). -/
def execCmdRect12 (pos : Position) (size : Size) (col : Colour) (s : State) : Host.Outcome State Fault Refusal :=
  .next (s.deliver (parseRect12 pos size col s.colour))

/-- `CMD_RECT_BADLEN` (R82). -/
def execCmdRectBadlen (_rest : List Byte) (s : State) : Host.Outcome State Fault Refusal :=
  .next (s.deliver (parseRectBadlen s.colour))

/-- `CMD_SYSINFO`; the bytes at offset 6 and above have no effect (R51, R83). -/
def execCmdSysinfo (hw major minor patch font : Byte) (_rest : List Byte) (s : State) :
    Host.Outcome State Fault Refusal :=
  .next (s.deliver (parseSysinfo hw major minor patch font s.colour))

/-- `CMD_SYSINFO_BADLEN` (R84). -/
def execCmdSysinfoBadlen (_rest : List Byte) (s : State) : Host.Outcome State Fault Refusal :=
  .next (s.deliver (parseSysinfoBadlen s.colour))

/-- `CMD_KEYPRESS` (R85). -/
def execCmdKeypress (_rest : List Byte) (s : State) : Host.Outcome State Fault Refusal :=
  .next (s.deliver (parseKeypress s.colour))

/-- `CMD_UNRECOGNIZED` (R86). -/
def execCmdUnrecognized (tag : Byte) (_rest : List Byte) (s : State) : Host.Outcome State Fault Refusal :=
  .next (s.deliver (parseUnrecognized tag s.colour))

end Sys2Proof.Machine
end

