-- ==== Sys2Proof/Machine/Framer.lean ====
section
/-! DEFINITION. The framer (40_framer.md): what each row of its decode table does and yields (R63 to R68), the choice of
the row (R61), what the decoder does with the yield in the same step (R90), and the meanings of the FRM rows. A row
does what its rule says whatever `FSTATE` holds; a step only ever runs a row in the `FSTATE` of its key (log entry 5). -/

namespace Sys2Proof.Machine

/-- `FRM_END`: a non-empty buffer is the packet, and is cleared; an empty one yields nothing (R63). -/
def frmEnd (s : State) : State × FeedResult :=
  if 0 < s.len then (s.setBuf [], .packet s.buf) else (s, .nothing)

/-- `FRM_ESC` (R64). -/
def frmEsc (s : State) : State × FeedResult := (s.setFstate .escaped, .nothing)

/-- `FRM_DATA` (R65). -/
def frmData (b : Byte) (s : State) : State × FeedResult := append b s

/-- `FRM_XEND` (R66). -/
def frmXend (s : State) : State × FeedResult := append frameEnd (s.setFstate .normal)

/-- `FRM_XESC` (R67). -/
def frmXesc (s : State) : State × FeedResult := append frameEsc (s.setFstate .normal)

/-- `FRM_XBAD`: the byte is consumed, neither appended nor re-interpreted (R68). -/
def frmXbad (b : Byte) (s : State) : State × FeedResult := framerError (.unknownEscapedByte b) s

/-- `feed(b)`: the one row that the key `{FSTATE, b}` chooses (R42, R61). -/
def feed (b : Byte) (s : State) : State × FeedResult :=
  match s.fstate with
  | .normal => if b = frameEnd then frmEnd s else if b = frameEsc then frmEsc s else frmData b s
  | .escaped => if b = frameEscEnd then frmXend s else if b = frameEscEsc then frmXesc s else frmXbad b s

/-- What the decoder does in the same step with the framer's yield: nothing, raise the error, or parse the packet
(R14, R37, R90). -/
def settle (r : State × FeedResult) : State :=
  match r.2 with
  | .nothing => r.1
  | .error e => r.1.raise e
  | .packet p => r.1.parsePacket p

/-- `FRM_END` (R63). -/
def execFrmEnd (s : State) : Host.Outcome State Fault Refusal := .next (settle (frmEnd s))

/-- `FRM_ESC` (R64). -/
def execFrmEsc (s : State) : Host.Outcome State Fault Refusal := .next (settle (frmEsc s))

/-- `FRM_DATA` (R65). -/
def execFrmData (b : Byte) (s : State) : Host.Outcome State Fault Refusal := .next (settle (frmData b s))

/-- `FRM_XEND` (R66). -/
def execFrmXend (s : State) : Host.Outcome State Fault Refusal := .next (settle (frmXend s))

/-- `FRM_XESC` (R67). -/
def execFrmXesc (s : State) : Host.Outcome State Fault Refusal := .next (settle (frmXesc s))

/-- `FRM_XBAD` (R68). -/
def execFrmXbad (b : Byte) (s : State) : Host.Outcome State Fault Refusal := .next (settle (frmXbad b s))

end Sys2Proof.Machine
end

