-- ==== Sys2Proof/Machine/Decoder.lean ====
section
/-! DEFINITION. The three input events (42_decoder.md): one raw byte, the start of a cycle and the session reset. -/

namespace Sys2Proof.Machine

/-- `BYTE`: the byte is fed to the framer and what it yields is settled, all in one step (R37, R90). -/
def execByte (b : Byte) (s : State) : Host.Outcome State Fault Refusal := .next (settle (feed b s))

/-- `CYCLE_START`: the command list is cleared and nothing else (R91). -/
def execCycleStart (s : State) : Host.Outcome State Fault Refusal := .next (s.setCmds [])

/-- `RESET`: the four elements of the state take their reset values, with no event (R92, R113). -/
def execReset (s : State) : Host.Outcome State Fault Refusal :=
  .next ((((s.setFstate .normal).setBuf []).setColour s.params.resetColour).setCmds [])

end Sys2Proof.Machine
end

