-- ==== Sys2Proof/Machine/Dispatch.lean ====
section
/-! DEFINITION. The meaning of every instruction: one arm per constructor of Instr, each a call of its meaning. -/

namespace Sys2Proof.Machine

def exec (i : Instr) (s : State) : Host.Outcome State Fault Refusal :=
  match i with
  -- the input events
  | .reset => Sys2Proof.Machine.execReset s
  | .cycleStart => Sys2Proof.Machine.execCycleStart s
  | .byte b => Sys2Proof.Machine.execByte b s
  -- the framer's rows
  | .frmEnd => Sys2Proof.Machine.execFrmEnd s
  | .frmEsc => Sys2Proof.Machine.execFrmEsc s
  | .frmData b => Sys2Proof.Machine.execFrmData b s
  | .frmXend => Sys2Proof.Machine.execFrmXend s
  | .frmXesc => Sys2Proof.Machine.execFrmXesc s
  | .frmXbad b => Sys2Proof.Machine.execFrmXbad b s
  -- the packet forms
  | .cmdEmpty => Sys2Proof.Machine.execCmdEmpty s
  | .cmdWave colour samples => Sys2Proof.Machine.execCmdWave colour samples s
  | .cmdWaveBadlen rest => Sys2Proof.Machine.execCmdWaveBadlen rest s
  | .cmdChar code pos fg bg => Sys2Proof.Machine.execCmdChar code pos fg bg s
  | .cmdCharBadlen rest => Sys2Proof.Machine.execCmdCharBadlen rest s
  | .cmdRect5 pos => Sys2Proof.Machine.execCmdRect5 pos s
  | .cmdRect8 pos col => Sys2Proof.Machine.execCmdRect8 pos col s
  | .cmdRect9 pos size => Sys2Proof.Machine.execCmdRect9 pos size s
  | .cmdRect12 pos size col => Sys2Proof.Machine.execCmdRect12 pos size col s
  | .cmdRectBadlen rest => Sys2Proof.Machine.execCmdRectBadlen rest s
  | .cmdSysinfo hw major minor patch font rest => Sys2Proof.Machine.execCmdSysinfo hw major minor patch font rest s
  | .cmdSysinfoBadlen rest => Sys2Proof.Machine.execCmdSysinfoBadlen rest s
  | .cmdKeypress rest => Sys2Proof.Machine.execCmdKeypress rest s
  | .cmdUnrecognized tag rest => Sys2Proof.Machine.execCmdUnrecognized tag rest s

end Sys2Proof.Machine
end

