-- ==== Sys2Proof/Machine/Step.lean ====
section
/-! DEFINITION. The step of the block: it consumes the next input the host has supplied (R10, R89). With no input
pending the block is idle and keeps all its state (R112; log entry 4). -/

namespace Sys2Proof.Machine

/-- One step (R89). -/
def step (s : State) : Host.Outcome State Fault Refusal :=
  match s.fetch with
  | none => .next s
  | some (e, s') => exec (decode (.event e)) s'

/-- `s` with the instruction of a table word where the next step takes it from (log entries 6 and 7). -/
def State.withFetchWord (s : State) (nbits w : Nat) : State :=
  match tableCode nbits w with
  | none => s
  | some c => s.present c

end Sys2Proof.Machine
end

