-- ==== Sys2Proof/Safety.lean ====
section
/-! DEFINITION. What counts as a legal state and as a run of the block: the invariant every step keeps (R7, R17, R23,
R69, R116), runs over a sequence of inputs (R89), and the cycle observation (R93). -/

namespace Sys2Proof.Machine

/-- The invariant: `CAP >= 1` (R7); the buffer never exceeds its capacity (R17); the commands of the current cycle are
the last commands of the trace (R90, R116); and no command ever emitted carries more than 480 samples (R23). -/
structure State.Inv (s : State) : Prop where
  cap_pos : s.params.ok
  buf_le_cap : s.len ≤ s.params.cap
  cmds_in_trace : s.cmds <:+ commandsOf s.trace
  commands_ok : ∀ c ∈ commandsOf s.trace, c.ok = true

/-- Two states decode alike: they agree on all that decoding reads and outputs, and may differ in the command list of
the cycle and in the pending inputs (R95, R119). -/
structure State.DecodesAlike (s u : State) : Prop where
  same_trace : s.trace = u.trace
  same_fstate : s.fstate = u.fstate
  same_buf : s.buf = u.buf
  same_colour : s.colour = u.colour
  same_params : s.params = u.params

/-- A run: the inputs are processed one step each, in order (R89). -/
def runInputs : List Input → State → Host.Outcome State Fault Refusal
  | [], s => .next s
  | e :: es, s =>
    match exec (decode (.event e)) s with
    | .next t => runInputs es t
    | .fault r => .fault r
    | .refused r => .refused r

/-- The inputs of one item of a stream: a framed payload byte by byte (R60), or the start of a cycle. -/
def itemInputs : Option (List Byte) → List Input
  | some payload => (frame payload).map .byte
  | none => [.cycleStart]

/-- A wire stream: one `Byte` per byte (R59). -/
def runBytes (raw : List Byte) (s : State) : Host.Outcome State Fault Refusal := runInputs (raw.map .byte) s

/-- `decode_cycle(raw)`: a `CycleStart` and then one `Byte` per byte; its result is the `CMDS` of the last state (R93). -/
def decodeCycle (raw : List Byte) (s : State) : Host.Outcome State Fault Refusal := runInputs (cycleInputs raw) s

/-- The state an outcome holds, where it is a next state. -/
def nextState (o : Host.Outcome State Fault Refusal) : Option State :=
  match o with
  | .next t => some t
  | .fault _ => none
  | .refused _ => none

end Sys2Proof.Machine
end

