-- ==== Sys2Proof/Certificates/Slice0/Obligations.lean ====
section
/-! DEFINITION. The statements about the model, for the provers. Wire bytes, tags and lengths are written out as the
spec writes them, not by the model's names for them. `trace` is the run's event trace: an event a step outputs stands
at its end (R25, R89; log entry 2, decision D2). A conclusion of the form `{ s with … }` states the frame too: every
field not named there is as before. -/

open Sys2Proof Sys2Proof.Machine

/-! ## Encoding -/

/-- A few words written out from the spec's tables: the framer's keys (R42), packets of 95_test_vectors.md §2.3.
The order `r`, `g`, `b` of the colours among the results is the spec's own decision D7 (log entry 9). -/
def Obligations.WrittenOutWordsDecode : Prop :=
  decode (.key 0b011000000) = .frmEnd ∧
  decode (.key 0b011011011) = .frmEsc ∧
  decode (.key 0b011011100) = .frmData 0xDC ∧
  decode (.key 0b111011100) = .frmXend ∧
  decode (.key 0b111011101) = .frmXesc ∧
  decode (.key 0b111000000) = .frmXbad 0xC0 ∧
  decode (.packet []) = .cmdEmpty ∧
  decode (.packet [0xFC, 0x10, 0x20, 0x30, 0x01, 0x02, 0x03]) = .cmdWave ⟨0x10, 0x20, 0x30⟩ [0x01, 0x02, 0x03] ∧
  decode (.packet [0xFD, 0x41, 0x0A, 0x00, 0x14, 0x00, 0xFF, 0xFF, 0xFF, 0x00, 0x00, 0x00]) =
    .cmdChar 0x41 ⟨10, 20⟩ ⟨255, 255, 255⟩ ⟨0, 0, 0⟩ ∧
  decode (.packet [0xFE, 0x34, 0x12, 0x78, 0x56]) = .cmdRect5 ⟨0x1234, 0x5678⟩ ∧
  decode (.packet [0xFE, 0x00, 0x01, 0x00, 0x02, 0x10, 0x00, 0x20, 0x00, 0x0A, 0x0B, 0x0C]) =
    .cmdRect12 ⟨256, 512⟩ ⟨16, 32⟩ ⟨10, 11, 12⟩ ∧
  decode (.packet [0xFF, 0x03, 0x01, 0x02, 0x05, 0x01]) = .cmdSysinfo 3 1 2 5 1 [] ∧
  decode (.packet [0xFA, 0x00]) = .cmdUnrecognized 0xFA [0x00]

/-- The framer decode table of R42 read through the masks, matches and exclusions of the opcode table: every 9-bit key
decodes to the row it matches. -/
def Obligations.FramerKeysDecodeByTheTable : Prop :=
  ∀ k : BitVec 9,
    (k &&& 0x1FF = 0x0C0 → decode (.key k) = .frmEnd) ∧
    (k &&& 0x1FF = 0x0DB → decode (.key k) = .frmEsc) ∧
    (k &&& 0x100 = 0x000 → k ≠ 0x0C0 → k ≠ 0x0DB → decode (.key k) = .frmData (k.setWidth 8)) ∧
    (k &&& 0x1FF = 0x1DC → decode (.key k) = .frmXend) ∧
    (k &&& 0x1FF = 0x1DD → decode (.key k) = .frmXesc) ∧
    (k &&& 0x100 = 0x100 → k ≠ 0x1DC → k ≠ 0x1DD → decode (.key k) = .frmXbad (k.setWidth 8))

/-- The packet decode map of R55, the illegal packets of R56 included: the tag and the length of a packet choose its
form, and a form that reads no field keeps the bytes after the tag, which is the model's choice (log entry 19). -/
def Obligations.PacketFormByTagAndLength : Prop :=
  decode (.packet []) = .cmdEmpty ∧
  ∀ (tag : Byte) (rest : List Byte) (n : Nat), n = 1 + rest.length →
    (tag = 0xFC → 4 ≤ n → n ≤ 484 → ∃ c l, decode (.packet (tag :: rest)) = .cmdWave c l) ∧
    (tag = 0xFC → n < 4 ∨ 484 < n → decode (.packet (tag :: rest)) = .cmdWaveBadlen rest) ∧
    (tag = 0xFD → n = 12 → ∃ c q f g, decode (.packet (tag :: rest)) = .cmdChar c q f g) ∧
    (tag = 0xFD → n ≠ 12 → decode (.packet (tag :: rest)) = .cmdCharBadlen rest) ∧
    (tag = 0xFE → n = 5 → ∃ q, decode (.packet (tag :: rest)) = .cmdRect5 q) ∧
    (tag = 0xFE → n = 8 → ∃ q c, decode (.packet (tag :: rest)) = .cmdRect8 q c) ∧
    (tag = 0xFE → n = 9 → ∃ q z, decode (.packet (tag :: rest)) = .cmdRect9 q z) ∧
    (tag = 0xFE → n = 12 → ∃ q z c, decode (.packet (tag :: rest)) = .cmdRect12 q z c) ∧
    (tag = 0xFE → n ∉ [5, 8, 9, 12] → decode (.packet (tag :: rest)) = .cmdRectBadlen rest) ∧
    (tag = 0xFF → 6 ≤ n → ∃ a b c d e l, decode (.packet (tag :: rest)) = .cmdSysinfo a b c d e l) ∧
    (tag = 0xFF → n < 6 → decode (.packet (tag :: rest)) = .cmdSysinfoBadlen rest) ∧
    (tag = 0xFB → decode (.packet (tag :: rest)) = .cmdKeypress rest) ∧
    (tag ∉ [0xFB, 0xFC, 0xFD, 0xFE, 0xFF] → decode (.packet (tag :: rest)) = .cmdUnrecognized tag rest)

/-- The field layouts of R45 to R51, byte by byte: 16-bit fields low byte first (R29), colours `r`, `g`, `b` at
ascending offsets. The channel order is the spec's own decision D7 (log entry 9). -/
def Obligations.PacketFieldLayouts : Prop :=
  ∀ (a b c d e f g h j k l : Byte) (more : List Byte),
    (more.length ≤ 480 → decode (.packet (0xFC :: a :: b :: c :: more)) = .cmdWave ⟨a, b, c⟩ more) ∧
    decode (.packet [0xFD, a, b, c, d, e, f, g, h, j, k, l]) =
      .cmdChar a ⟨c ++ b, e ++ d⟩ ⟨f, g, h⟩ ⟨j, k, l⟩ ∧
    decode (.packet [0xFE, a, b, c, d]) = .cmdRect5 ⟨b ++ a, d ++ c⟩ ∧
    decode (.packet [0xFE, a, b, c, d, e, f, g]) = .cmdRect8 ⟨b ++ a, d ++ c⟩ ⟨e, f, g⟩ ∧
    decode (.packet [0xFE, a, b, c, d, e, f, g, h]) = .cmdRect9 ⟨b ++ a, d ++ c⟩ ⟨f ++ e, h ++ g⟩ ∧
    decode (.packet [0xFE, a, b, c, d, e, f, g, h, j, k, l]) =
      .cmdRect12 ⟨b ++ a, d ++ c⟩ ⟨f ++ e, h ++ g⟩ ⟨j, k, l⟩ ∧
    decode (.packet (0xFF :: a :: b :: c :: d :: e :: more)) = .cmdSysinfo a b c d e more

/-- R29: of a 16-bit field, the byte at the lower offset is bits `[7:0]` and the next byte is bits `[15:8]`; the fields
`x`, `y`, `width` and `height` of every form that has them are read so. -/
def Obligations.SixteenBitFieldsAreLittleEndian : Prop :=
  (∀ (p : List Byte) (i : Nat) (h : i + 1 < p.length),
    (le16 p i).extractLsb' 0 8 = p[i] ∧ (le16 p i).extractLsb' 8 8 = p[i + 1]) ∧
  (∀ a b c d e f g h j k l : Byte,
    decode (.packet [0xFE, a, b, c, d]) = .cmdRect5 ⟨b ++ a, d ++ c⟩ ∧
    (∃ col, decode (.packet [0xFE, a, b, c, d, e, f, g]) = .cmdRect8 ⟨b ++ a, d ++ c⟩ col) ∧
    decode (.packet [0xFE, a, b, c, d, e, f, g, h]) = .cmdRect9 ⟨b ++ a, d ++ c⟩ ⟨f ++ e, h ++ g⟩ ∧
    (∃ col, decode (.packet [0xFE, a, b, c, d, e, f, g, h, j, k, l]) =
      .cmdRect12 ⟨b ++ a, d ++ c⟩ ⟨f ++ e, h ++ g⟩ col) ∧
    (∃ fg bg, decode (.packet [0xFD, a, b, c, d, e, f, g, h, j, k, l]) = .cmdChar a ⟨c ++ b, e ++ d⟩ fg bg))

/-- Decode and encode agree: the code of a well-formed instruction decodes to that instruction, with every operand. -/
def Obligations.DecodeOfEncode : Prop :=
  ∀ i : Instr, i.wf = true → decode (encode i) = i

/-- Every code decodes to a well-formed instruction whose code it is: no byte of a packet and no bit of a key is
dropped or read twice, and no field is read outside the packet (R28). -/
def Obligations.EncodeOfDecode : Prop :=
  ∀ c : Code, (decode c).wf = true ∧ encode (decode c) = c

/-- R60: how a payload is escaped and framed, and that an escaped payload holds no frame end. -/
def Obligations.EscapedPayloads : Prop :=
  escape [] = [] ∧
  (∀ p : List Byte, escape (0xC0 :: p) = 0xDB :: 0xDC :: escape p) ∧
  (∀ p : List Byte, escape (0xDB :: p) = 0xDB :: 0xDD :: escape p) ∧
  (∀ (v : Byte) (p : List Byte), v ≠ 0xC0 → v ≠ 0xDB → escape (v :: p) = v :: escape p) ∧
  (∀ p : List Byte, frame p = escape p ++ [0xC0]) ∧
  (∀ p : List Byte, 0xC0 ∉ escape p)

/-! ## The framer's rows -/

/-- R63: in Normal, a frame end with an empty buffer does nothing; with a non-empty buffer it clears the buffer and
hands its contents to the parser in the same step; `FSTATE` stays Normal. -/
def Obligations.FrameEndHandsOverTheBuffer : Prop :=
  ∀ s : State, s.fstate = .normal →
    (s.buf = [] → exec .frmEnd s = .next s) ∧
    (s.buf ≠ [] → exec .frmEnd s = exec (decode (.packet s.buf)) { s with buf := [] }) ∧
    ∃ t, exec .frmEnd s = .next t ∧ t.fstate = .normal ∧ t.buf = []

/-- R64: the escape byte in Normal enters Escaped; the buffer is unchanged and nothing is emitted, a full buffer
included. -/
def Obligations.EscapeByteEntersEscaped : Prop :=
  ∀ s : State, s.fstate = .normal → exec .frmEsc s = .next { s with fstate := .escaped }

/-- R65 with R62: a data byte in Normal is appended where the buffer is not at `CAP`; at `CAP` the buffer is cleared
and `BufferOverflow` is raised. That the byte is lost with the buffer is R62's own derivation (log entry 23). -/
def Obligations.DataByteIsAppended : Prop :=
  ∀ (s : State) (b : Byte), s.fstate = .normal → b ≠ 0xC0 → b ≠ 0xDB →
    (s.buf.length ≠ s.params.cap → exec (.frmData b) s = .next { s with buf := s.buf ++ [b] }) ∧
    (s.buf.length = s.params.cap →
      exec (.frmData b) s = .next { s with buf := [], trace := s.trace ++ [.err .bufferOverflow] })

/-- R66 with R62: in Escaped, `0xDC` appends a literal `0xC0` and returns to Normal; at `CAP` it overflows instead. That
an escaped append is checked against `CAP` is the spec's own reading (log entry 24), and that the literal is lost with the
buffer is R62's own derivation (log entry 23). -/
def Obligations.EscapedEndIsAppended : Prop :=
  ∀ s : State, s.fstate = .escaped →
    (s.buf.length ≠ s.params.cap →
      exec .frmXend s = .next { s with fstate := .normal, buf := s.buf ++ [0xC0] }) ∧
    (s.buf.length = s.params.cap →
      exec .frmXend s =
        .next { s with fstate := .normal, buf := [], trace := s.trace ++ [.err .bufferOverflow] })

/-- R67 with R62: in Escaped, `0xDD` appends a literal `0xDB` and returns to Normal; at `CAP` it overflows instead. That
an escaped append is checked against `CAP` is the spec's own reading (log entry 24), and that the literal is lost with the
buffer is R62's own derivation (log entry 23). -/
def Obligations.EscapedEscapeIsAppended : Prop :=
  ∀ s : State, s.fstate = .escaped →
    (s.buf.length ≠ s.params.cap →
      exec .frmXesc s = .next { s with fstate := .normal, buf := s.buf ++ [0xDB] }) ∧
    (s.buf.length = s.params.cap →
      exec .frmXesc s =
        .next { s with fstate := .normal, buf := [], trace := s.trace ++ [.err .bufferOverflow] })

/-- R68: in Escaped, any other byte clears the buffer, returns to Normal and raises `UnknownEscapedByte` with it. That
the byte is not re-interpreted is R68's own derivation (log entry 23). -/
def Obligations.UnknownEscapeIsDiscarded : Prop :=
  ∀ (s : State) (b : Byte), s.fstate = .escaped → b ≠ 0xDC → b ≠ 0xDD →
    exec (.frmXbad b) s =
      .next { s with fstate := .normal, buf := [], trace := s.trace ++ [.err (.unknownEscapedByte b)] }

/-- R41, R61: a byte does what the one row does that its key `{FSTATE, b}` chooses. -/
def Obligations.ByteRunsTheRowOfItsKey : Prop :=
  ∀ (s : State) (b : Byte),
    (s.fstate = .normal → exec (.byte b) s = exec (decode (.key (0#1 ++ b))) s) ∧
    (s.fstate = .escaped → exec (.byte b) s = exec (decode (.key (1#1 ++ b))) s)

/-- R90: the whole of a `Byte` step, case by case. That the packet is parsed in the same step is the spec's own
decision D21 (log entry 18); that an escaped append is checked against `CAP` is its own reading (log entry 24); that the
overflowing byte is lost and the byte of a bad escape is not re-interpreted are its own derivations (log entry 23). -/
def Obligations.ByteStepCaseByCase : Prop :=
  ∀ (s : State) (b : Byte),
    (s.fstate = .normal → b = 0xC0 → s.buf = [] → exec (.byte b) s = .next s) ∧
    (s.fstate = .normal → b = 0xC0 → s.buf ≠ [] →
      exec (.byte b) s = exec (decode (.packet s.buf)) { s with buf := [] }) ∧
    (s.fstate = .normal → b = 0xDB → exec (.byte b) s = .next { s with fstate := .escaped }) ∧
    (s.fstate = .normal → b ≠ 0xC0 → b ≠ 0xDB → s.buf.length ≠ s.params.cap →
      exec (.byte b) s = .next { s with buf := s.buf ++ [b] }) ∧
    (s.fstate = .normal → b ≠ 0xC0 → b ≠ 0xDB → s.buf.length = s.params.cap →
      exec (.byte b) s = .next { s with buf := [], trace := s.trace ++ [.err .bufferOverflow] }) ∧
    (s.fstate = .escaped → b = 0xDC → s.buf.length ≠ s.params.cap →
      exec (.byte b) s = .next { s with fstate := .normal, buf := s.buf ++ [0xC0] }) ∧
    (s.fstate = .escaped → b = 0xDD → s.buf.length ≠ s.params.cap →
      exec (.byte b) s = .next { s with fstate := .normal, buf := s.buf ++ [0xDB] }) ∧
    (s.fstate = .escaped → b = 0xDC ∨ b = 0xDD → s.buf.length = s.params.cap →
      exec (.byte b) s =
        .next { s with fstate := .normal, buf := [], trace := s.trace ++ [.err .bufferOverflow] }) ∧
    (s.fstate = .escaped → b ≠ 0xDC → b ≠ 0xDD →
      exec (.byte b) s =
        .next { s with fstate := .normal, buf := [], trace := s.trace ++ [.err (.unknownEscapedByte b)] })

/-- R41: the framer's key `K = {FSTATE, b}` holds `FSTATE` in `K[8]` and the byte in `K[7:0]`, and the framer's
behaviour is a function of `K`, `BUF` and `CAP` only: it does not depend on `COLOUR`, `CMDS` or anything else. -/
def Obligations.FramerIsAFunctionOfItsKey : Prop :=
  (∀ (f : FState) (b : Byte),
    (framerKey f b).setWidth 8 = b ∧ ((framerKey f b).getLsbD 8 = true ↔ f = .escaped)) ∧
  (∀ (s s' t t' : State) (b b' : Byte),
    framerKey s.fstate b = framerKey s'.fstate b' → s.buf = s'.buf → s.params.cap = s'.params.cap →
    exec (.byte b) s = .next t → exec (.byte b') s' = .next t' →
    t.fstate = t'.fstate ∧ t.buf = t'.buf)

/-! ## The packet forms -/

/-- R78, R80: the rectangle forms that carry no colour take the colour context, and leave it unchanged. -/
def Obligations.RectangleWithContextColour : Prop :=
  (∀ (s : State) (pos : Position),
    exec (.cmdRect5 pos) s = .next { s with
      cmds := s.cmds ++ [.drawRectangle pos ⟨1, 1⟩ s.colour],
      trace := s.trace ++ [.cmd (.drawRectangle pos ⟨1, 1⟩ s.colour)] }) ∧
  (∀ (s : State) (pos : Position) (size : Size),
    exec (.cmdRect9 pos size) s = .next { s with
      cmds := s.cmds ++ [.drawRectangle pos size s.colour],
      trace := s.trace ++ [.cmd (.drawRectangle pos size s.colour)] }) ∧
  (∀ p : List Byte, p.head? = some 0xFE → p.length = 5 →
    decode (.packet p) = .cmdRect5 ⟨le16 p 1, le16 p 3⟩) ∧
  (∀ p : List Byte, p.head? = some 0xFE → p.length = 9 →
    decode (.packet p) = .cmdRect9 ⟨le16 p 1, le16 p 3⟩ ⟨le16 p 5, le16 p 7⟩)

/-- R79, R81: the rectangle forms that carry a colour draw with it and write it to the colour context. -/
def Obligations.RectangleWithInlineColour : Prop :=
  (∀ (s : State) (pos : Position) (col : Colour),
    exec (.cmdRect8 pos col) s = .next { s with
      colour := col,
      cmds := s.cmds ++ [.drawRectangle pos ⟨1, 1⟩ col],
      trace := s.trace ++ [.cmd (.drawRectangle pos ⟨1, 1⟩ col)] }) ∧
  (∀ (s : State) (pos : Position) (size : Size) (col : Colour),
    exec (.cmdRect12 pos size col) s = .next { s with
      colour := col,
      cmds := s.cmds ++ [.drawRectangle pos size col],
      trace := s.trace ++ [.cmd (.drawRectangle pos size col)] }) ∧
  (∀ p : List Byte, p.head? = some 0xFE → p.length = 8 →
    decode (.packet p) = .cmdRect8 ⟨le16 p 1, le16 p 3⟩ (rgb p 5)) ∧
  (∀ p : List Byte, p.head? = some 0xFE → p.length = 12 →
    decode (.packet p) = .cmdRect12 ⟨le16 p 1, le16 p 3⟩ ⟨le16 p 5, le16 p 7⟩ (rgb p 9))

/-- R74: a waveform packet gives its command with the samples passed through, and writes no colour context. R74 is about
4 to 484 bytes, so 0 to 480 samples; that a longer sample list, which no packet decodes to, does the same is the model's
choice (log entry 19). -/
def Obligations.WaveformCommand : Prop :=
  (∀ (s : State) (col : Colour) (samples : List Byte),
    exec (.cmdWave col samples) s = .next { s with
      cmds := s.cmds ++ [.drawOscilloscopeWaveform col samples],
      trace := s.trace ++ [.cmd (.drawOscilloscopeWaveform col samples)] }) ∧
  (∀ p : List Byte, p.head? = some 0xFC → 4 ≤ p.length → p.length ≤ 484 →
    decode (.packet p) = .cmdWave (rgb p 1) (p.drop 4))

/-- R76: a character packet gives its command; the colour context is neither read nor written. -/
def Obligations.CharacterCommand : Prop :=
  (∀ (s : State) (code : Byte) (pos : Position) (fg bg : Colour),
    exec (.cmdChar code pos fg bg) s = .next { s with
      cmds := s.cmds ++ [.drawCharacter code pos fg bg],
      trace := s.trace ++ [.cmd (.drawCharacter code pos fg bg)] }) ∧
  (∀ (p : List Byte) (h : p.length = 12), p.head? = some 0xFD →
    decode (.packet p) = .cmdChar p[1] ⟨le16 p 2, le16 p 4⟩ (rgb p 6) (rgb p 9))

/-- R83: a system-info packet of at least six bytes gives its command. That the bytes from offset 6 on have no effect is
R51's own derivation (log entry 23). -/
def Obligations.SystemInfoCommand : Prop :=
  (∀ (s : State) (hw major minor patch font : Byte) (rest : List Byte),
    exec (.cmdSysinfo hw major minor patch font rest) s = .next { s with
      cmds := s.cmds ++ [.systemInfo hw major minor patch font],
      trace := s.trace ++ [.cmd (.systemInfo hw major minor patch font)] }) ∧
  (∀ (p : List Byte) (h : 6 ≤ p.length), p.head? = some 0xFF →
    decode (.packet p) = .cmdSysinfo p[1] p[2] p[3] p[4] p[5] (p.drop 6))

/-- R75, R77, R82, R84: a known tag with a length its form does not accept raises that tag's format error and changes
nothing else. -/
def Obligations.WrongLengthsAreReported : Prop :=
  ∀ (s : State) (p : List Byte),
    (p.head? = some 0xFC → p.length < 4 ∨ 484 < p.length →
      decode (.packet p) = .cmdWaveBadlen (p.drop 1) ∧
      exec (.cmdWaveBadlen (p.drop 1)) s =
        .next { s with trace := s.trace ++ [.err .waveformInvalidFormat] }) ∧
    (p.head? = some 0xFD → p.length ≠ 12 →
      decode (.packet p) = .cmdCharBadlen (p.drop 1) ∧
      exec (.cmdCharBadlen (p.drop 1)) s =
        .next { s with trace := s.trace ++ [.err .characterInvalidFormat] }) ∧
    (p.head? = some 0xFE → p.length ∉ [5, 8, 9, 12] →
      decode (.packet p) = .cmdRectBadlen (p.drop 1) ∧
      exec (.cmdRectBadlen (p.drop 1)) s =
        .next { s with trace := s.trace ++ [.err .rectangleInvalidFormat] }) ∧
    (p.head? = some 0xFF → p.length < 6 →
      decode (.packet p) = .cmdSysinfoBadlen (p.drop 1) ∧
      exec (.cmdSysinfoBadlen (p.drop 1)) s =
        .next { s with trace := s.trace ++ [.err .systemInfoInvalidFormat] })

/-- R86: any other tag raises `UnrecognizedCommand` with the tag, whatever the length, and changes nothing else. -/
def Obligations.UnknownTagIsReported : Prop :=
  ∀ (s : State) (tag : Byte) (rest : List Byte), tag ∉ [0xFB, 0xFC, 0xFD, 0xFE, 0xFF] →
    decode (.packet (tag :: rest)) = .cmdUnrecognized tag rest ∧
    exec (.cmdUnrecognized tag rest) s =
      .next { s with trace := s.trace ++ [.err (.unrecognizedCommand tag)] }

/-- The empty packet raises `RectangleInvalidFormat`. The kind is the spec's own decision D8 (log entry 12). -/
def Obligations.EmptyPacketIsReported : Prop :=
  ∀ s : State, decode (.packet []) = .cmdEmpty ∧
    exec .cmdEmpty s = .next { s with trace := s.trace ++ [.err .rectangleInvalidFormat] }

/-- A key-press packet is ignored: no command, no error, no change. That it is so at every length is the spec's own
decision D9 (log entry 16). -/
def Obligations.KeypressIsIgnored : Prop :=
  ∀ (s : State) (rest : List Byte),
    decode (.packet (0xFB :: rest)) = .cmdKeypress rest ∧ exec (.cmdKeypress rest) s = .next s

/-- The dispatch procedure of R72 and the decode map of R55 agree: parsing a packet and applying the outcome (R90) is
executing the form the packet decodes to. -/
def Obligations.ParseAgreesWithTheDecodedForm : Prop :=
  ∀ (s : State) (p : List Byte),
    exec (decode (.packet p)) s = .next (s.deliver (parse p s.colour))

/-- R71, R87: what a parse does to the colour context: it is kept by every outcome but the command of a RECT8 or a
RECT12, which makes it the command's own colour. -/
def Obligations.ParseKeepsTheColourContext : Prop :=
  ∀ (p : List Byte) (C : Colour),
    (parse p C).2 = C ∨
    (p.head? = some 0xFE ∧ (p.length = 8 ∨ p.length = 12) ∧
      ∃ pos size, parse p C = (.cmd (.drawRectangle pos size (parse p C).2), (parse p C).2))

/-- R87: `COLOUR` is written by RECT8, RECT12 and Reset only, the two forms reached through a frame end too. That this
holds of a framer row in the other `FSTATE` and of operands that are not well formed rests on the model's own choices (log
entries 5 and 19). -/
def Obligations.ColourWriteDiscipline : Prop :=
  (∀ (i : Instr) (s t : State), exec i s = .next t → t.colour ≠ s.colour →
    (i = .reset ∧ t.colour = s.params.resetColour) ∨
    (∃ pos, i = .cmdRect8 pos t.colour) ∨
    (∃ pos size, i = .cmdRect12 pos size t.colour) ∨
    ((i = .frmEnd ∨ (i = .byte 0xC0 ∧ s.fstate = .normal)) ∧
      ((∃ pos, decode (.packet s.buf) = .cmdRect8 pos t.colour) ∨
       (∃ pos size, decode (.packet s.buf) = .cmdRect12 pos size t.colour)))) ∧
  (∀ (s t : State) (pos : Position) (size : Size) (col : Colour),
    (exec (.cmdRect8 pos col) s = .next t → t.colour = col) ∧
    (exec (.cmdRect12 pos size col) s = .next t → t.colour = col))

/-- A command identifies the tag of the packet that produced it (R23; the identification is the spec's own decision
D12, log entry 15). -/
def Obligations.CommandTagIsThePacketsTag : Prop :=
  ∀ (p : List Byte) (s t : State) (c : Command),
    exec (decode (.packet p)) s = .next t → t.trace = s.trace ++ [.cmd c] → p.head? = some c.tag

/-! ## The input events and the step -/

/-- R91: the start of a cycle clears the command list and changes nothing else, an escape in flight included. -/
def Obligations.CycleStartClearsTheCommands : Prop :=
  ∀ s : State, exec .cycleStart s = .next { s with cmds := [] }

/-- Reset gives the state that construction gives (R92, R113), keeps the two parameters and emits no event. That it
clears `CMDS`, emits nothing, and starts the framer in Normal with an empty buffer are the spec's own decisions D5 and
D6 (log entry 8). -/
def Obligations.ResetGivesTheConstructedState : Prop :=
  ∀ s : State,
    exec .reset s =
      .next { s with fstate := .normal, buf := [], colour := s.params.resetColour, cmds := [] } ∧
    exec .reset s = .next { State.construct s.params with inputs := s.inputs, trace := s.trace }

/-- The state after reset with this hardware's parameters (R7, R8, R113): the capacity is 1024 bytes, and the colour
context is black, which is the spec's own decision D4 (log entry 3). -/
def Obligations.ResetState : Prop :=
  State.reset.fstate = .normal ∧ State.reset.buf = [] ∧ State.reset.len = 0 ∧
  State.reset.colour = ⟨0, 0, 0⟩ ∧ State.reset.cmds = [] ∧
  State.reset.params.cap = 1024 ∧ State.reset.params.resetColour = ⟨0, 0, 0⟩ ∧
  State.reset.inputs = [] ∧ State.reset.trace = []

/-- R7, R8: no instruction changes `CAP` or `RESET_COLOUR`. That they are fields of State is the model's choice (log entry
3), and so is what it says of a framer row in the other `FSTATE` (log entry 5), of operands that are not well formed (log
entry 19) and of a step with no input pending (log entry 4). -/
def Obligations.ParametersAreFixed : Prop :=
  (∀ (i : Instr) (s t : State), exec i s = .next t → t.params = s.params) ∧
  (∀ s t : State, step s = .next t → t.params = s.params)

/-- Every state accepts every input and the step on it completes (R89, R96, R110), and every instruction completes in
every state, consumes no further input and keeps what the trace held at its front. Beyond the spec's inputs this rests on
the model's own choices: a framer row in the other `FSTATE` (log entry 5), operands that are not well formed (log entry
19), the step with no input pending (log entry 4), and the fields `inputs` and `trace` (log entries 1 and 2). -/
def Obligations.EveryInstructionCompletes : Prop :=
  (∀ (i : Instr) (s : State), ∃ t, exec i s = .next t ∧ t.inputs = s.inputs ∧ s.trace <+: t.trace) ∧
  (∀ s : State, ∃ t, step s = .next t ∧ t.inputs = s.inputs.tail)

/-- A step takes the next pending input and runs the instruction it stands for; with none pending the block is idle and
keeps all its state (R89, R112; log entries 1 and 4). -/
def Obligations.StepRunsTheNextInput : Prop :=
  (∀ (s : State) (e : Input) (es : List Input), s.inputs = e :: es →
    step s = exec (decode (.event e)) { s with inputs := es }) ∧
  (∀ s : State, s.inputs = [] → step s = .next s)

/-- A row's word placed for the next step is run by it: a framer key in the framer state of the key, a packet's tag as
the packet of twelve bytes whose further bytes are zeros (log entries 6 and 7). -/
def Obligations.FetchWordRunsItsInstruction : Prop :=
  (∀ (s : State) (b : Byte),
    step (s.withFetchWord 16 b.toNat) = exec (decode (.key (0#1 ++ b))) { s with fstate := .normal } ∧
    step (s.withFetchWord 16 (256 + b.toNat)) = exec (decode (.key (1#1 ++ b))) { s with fstate := .escaped } ∧
    decodeTableWord 16 b.toNat = some (decode (.key (0#1 ++ b))) ∧
    decodeTableWord 16 (256 + b.toNat) = some (decode (.key (1#1 ++ b)))) ∧
  (∀ (s : State) (tag : Byte),
    step (s.withFetchWord 8 tag.toNat) =
      exec (decode (.packet (tag :: List.replicate 11 0))) { s with fstate := .normal, buf := [] } ∧
    decodeTableWord 8 tag.toNat = some (decode (.packet (tag :: List.replicate 11 0))))

/-! ## Rules about the whole machine -/

/-- The invariant holds right after reset. The reset values it is about are the spec's own decisions D3, D5 and D6 (log
entries 3 and 8), and the empty trace is the model's (log entry 2). -/
def Obligations.ResetMeetsTheInvariant : Prop := State.reset.Inv

/-- Every step keeps the invariant: the buffer never exceeds its capacity (R17, R69), the commands of the cycle are the
last commands of the trace (R90, R116), and no waveform ever emitted has more than 480 samples (R23). That the bound on
the buffer holds for escaped bytes too is the spec's own reading of R62 (log entry 24). -/
def Obligations.StepKeepsTheInvariant : Prop :=
  ∀ s t : State, s.Inv → step s = .next t → t.Inv

/-- R16: after a `Byte` step `FSTATE` is Escaped exactly when that byte was a `0xDB` received in Normal; the other two
inputs never enter Escaped. That a Reset leaves Normal is the spec's own decision D5 (log entry 8), and that a `0xDB` in
Escaped starts no new escape is R68's own derivation (log entry 23). -/
def Obligations.EscapedExactlyAfterAnEscape : Prop :=
  ∀ (s t : State) (es : List Input), step s = .next t →
    (∀ b : Byte, s.inputs = .byte b :: es → (t.fstate = .escaped ↔ s.fstate = .normal ∧ b = 0xDB)) ∧
    (s.inputs = .cycleStart :: es → t.fstate = s.fstate) ∧
    (s.inputs = .reset :: es → t.fstate = .normal)

/-- R25, R69: a step outputs at most one event, and a `Reset` or a `CycleStart` none. The event list is the spec's own
decision D2 (log entry 2), and that a Reset emits nothing is its decision D6 (log entry 8). -/
def Obligations.AtMostOneEventPerStep : Prop :=
  ∀ s t : State, step s = .next t →
    (∃ ev : List OutEvent, ev.length ≤ 1 ∧ t.trace = s.trace ++ ev) ∧
    ((s.inputs.head? = some .reset ∨ s.inputs.head? = some .cycleStart) → t.trace = s.trace)

/-- R106: an error leaves `BUF` empty, `FSTATE` Normal and `COLOUR` and `CMDS` unchanged, and is raised at the byte that
caused it: a framer error at the offending byte, a parser error at the `0xC0` that ended the packet. That an escaped append
may overflow is the spec's own reading (log entry 24); what becomes of the offending byte is its own derivation (log
entry 23). -/
def Obligations.ErrorsRecoverAndArePrecise : Prop :=
  ∀ (s t : State) (e : ErrorEvent), step s = .next t → t.trace = s.trace ++ [.err e] →
    t.fstate = .normal ∧ t.buf = [] ∧ t.colour = s.colour ∧ t.cmds = s.cmds ∧
    (∀ b, e = .unknownEscapedByte b →
      s.fstate = .escaped ∧ s.inputs.head? = some (.byte b) ∧ b ≠ 0xDC ∧ b ≠ 0xDD) ∧
    (e = .bufferOverflow → s.buf.length = s.params.cap ∧ ∃ b, s.inputs.head? = some (.byte b) ∧
      (s.fstate = .normal ∧ b ≠ 0xC0 ∧ b ≠ 0xDB ∨ s.fstate = .escaped ∧ (b = 0xDC ∨ b = 0xDD))) ∧
    (e.code ∉ [1, 2] → s.fstate = .normal ∧ s.inputs.head? = some (.byte 0xC0) ∧ s.buf ≠ [])

/-- R69: a command is emitted only at a frame end received in Normal with a non-empty buffer, which it leaves empty; the
command is the new last one of `CMDS`. The one step for framing and parsing is the spec's own decision D21 (log entry
18). -/
def Obligations.CommandsOnlyAtAFrameEnd : Prop :=
  ∀ (s t : State) (c : Command), step s = .next t → t.trace = s.trace ++ [.cmd c] →
    s.fstate = .normal ∧ s.inputs.head? = some (.byte 0xC0) ∧ s.buf ≠ [] ∧
    t.fstate = .normal ∧ t.buf = [] ∧ t.cmds = s.cmds ++ [c]

/-- R18, R27: a `Byte` step writes `BUF` at offset `LEN` only, or clears it: an offset that held a byte holds the same
byte after, unless the buffer is empty. -/
def Obligations.BufferIsAppendedOrCleared : Prop :=
  ∀ (s t : State) (b : Byte), exec (.byte b) s = .next t →
    t.buf = [] ∨ ((∀ i, i < s.len → t.bufAt i = s.bufAt i) ∧ (t.len = s.len ∨ t.len = s.len + 1))

/-! ## Runs -/

/-- A run over inputs is as many steps of the machine with those inputs pending (R89). -/
def Obligations.RunsAreSteps : Prop :=
  ∀ (es : List Input) (s : State),
    Host.Core.run Sys2Proof.core es.length { s with inputs := es } = runInputs es { s with inputs := [] }

/-- Round trip (R70): from Normal with an empty buffer, the framed wire stream of a payload of one to `CAP` bytes runs
exactly the packet that payload is, and nothing else. -/
def Obligations.FramedPayloadIsParsedAsSent : Prop :=
  ∀ (s : State) (payload : List Byte), s.fstate = .normal → s.buf = [] →
    payload ≠ [] → payload.length ≤ s.params.cap →
    runBytes (frame payload) s = exec (decode (.packet payload)) s

/-- Self-healing (R117): whatever state the block is in, after one `0xC0` the next framed payload is parsed as sent. That a
`0xC0` in Escaped ends no frame is R68's own derivation (log entry 23). -/
def Obligations.FramingHealsAtAFrameEnd : Prop :=
  ∀ (s : State) (payload : List Byte), payload ≠ [] → payload.length ≤ s.params.cap →
    ∃ u, exec (.byte 0xC0) s = .next u ∧
      runBytes (0xC0 :: frame payload) s = exec (decode (.packet payload)) u

/-- Resync (R70): from Normal, whatever the buffer holds, an escape followed by a byte that is no escape code raises one
error and leaves Normal with an empty buffer. R70 and R68 derive this themselves (log entry 23). -/
def Obligations.ResyncFromNormal : Prop :=
  ∀ (s : State) (x : Byte), s.fstate = .normal → x ≠ 0xDC → x ≠ 0xDD →
    runBytes [0xDB, x] s = .next { s with buf := [], trace := s.trace ++ [.err (.unknownEscapedByte x)] }

/-- Capacity (R70): from Normal with `k` bytes in the buffer, plain bytes accumulate as long as they fit, and the
`(CAP - k + 1)`-th raises the overflow and leaves the buffer empty. R70 and R62 derive this themselves (log entry 23). -/
def Obligations.CapacityBound : Prop :=
  ∀ (s : State) (raw : List Byte) (last : Byte), s.fstate = .normal →
    (∀ v ∈ last :: raw, v ≠ 0xC0 ∧ v ≠ 0xDB) → s.buf.length + raw.length = s.params.cap →
    runBytes raw s = .next { s with buf := s.buf ++ raw } ∧
    runBytes (raw ++ [last]) s = .next { s with buf := [], trace := s.trace ++ [.err .bufferOverflow] }

/-- Error isolation (R94): a framed payload whose form is an error adds that one error event and is otherwise as if it
had never been sent: whatever follows runs from the same state. -/
def Obligations.MalformedFrameIsIsolated : Prop :=
  ∀ (s t : State) (payload : List Byte) (e : ErrorEvent) (es : List Input),
    s.fstate = .normal → s.buf = [] → payload ≠ [] → payload.length ≤ s.params.cap →
    exec (decode (.packet payload)) s = .next t → t.trace = s.trace ++ [.err e] →
    runInputs ((frame payload).map .byte ++ es) s = runInputs es { s with trace := s.trace ++ [.err e] }

/-- The cycle observation (R93, R116): the `CMDS` that a cycle ends with are the commands of the events the cycle
output, in order; there are at most as many events as raw bytes. Where a cycle's result is read is the spec's own
decision D25 (log entry 26). -/
def Obligations.CycleResultIsItsCommandEvents : Prop :=
  ∀ (raw : List Byte) (s : State), ∃ (t : State) (ev : List OutEvent),
    decodeCycle raw s = .next t ∧ t.trace = s.trace ++ ev ∧ t.cmds = commandsOf ev ∧ ev.length ≤ raw.length

/-- Cycle boundaries are not frame boundaries (R95, R119): where in a stream the cycles start makes no difference to the
event trace, the framer or the colour context. -/
def Obligations.CycleStartsDoNotAffectDecoding : Prop :=
  ∀ (es : List Input) (s : State), ∃ t u : State,
    runInputs es s = .next t ∧ runInputs (es.filter (fun e => e ≠ .cycleStart)) s = .next u ∧
    t.trace = u.trace ∧ t.fstate = u.fstate ∧ t.buf = u.buf ∧ t.colour = u.colour

/-- Colour dependency (R120): after a framed RECT8 or RECT12, framed payloads that write no colour (an error, a command
of another form) and cycle starts may come between, and a framed RECT5 or RECT9 still draws with that colour. -/
def Obligations.ShortRectangleTakesTheLastColour : Prop :=
  ∀ (s : State) (first last : List Byte) (between : List (Option (List Byte))) (pos q : Position) (size area : Size)
      (col : Colour),
    s.fstate = .normal → s.buf = [] →
    (∀ x, x = first ∨ x = last ∨ some x ∈ between → x ≠ [] ∧ x.length ≤ s.params.cap) →
    (decode (.packet first) = .cmdRect8 pos col ∨ decode (.packet first) = .cmdRect12 pos size col) →
    (∀ x, some x ∈ between → x.head? = some 0xFE → x.length ≠ 8 ∧ x.length ≠ 12) →
    (decode (.packet last) = .cmdRect5 q ∧ area = ⟨1, 1⟩ ∨ decode (.packet last) = .cmdRect9 q area) →
    ∃ t, runInputs (itemInputs (some first) ++ (between.flatMap itemInputs ++ itemInputs (some last))) s = .next t ∧
      t.colour = col ∧ t.cmds.getLast? = some (.drawRectangle q area col)

/-- Reset in mid-stream (R95, R117): after any inputs and a `Reset`, nothing of what came before is left but the trace.
What a Reset leaves is the spec's own decisions D5 and D6 (log entry 8). -/
def Obligations.ResetForgetsTheStream : Prop :=
  ∀ (es : List Input) (s : State), ∃ t u : State,
    runInputs es s = .next u ∧ runInputs (es ++ [.reset]) s = .next t ∧
    t = { State.construct s.params with inputs := s.inputs, trace := u.trace }

/-- Capacity sizing (R122): with `CAP >= 484` every waveform, character and rectangle command can be sent: its framed
packet runs it. -/
def Obligations.ValidFormsFitTheBuffer : Prop :=
  ∀ (s : State) (i : Instr) (p : List Byte), s.fstate = .normal → s.buf = [] → 484 ≤ s.params.cap →
    i.wf = true → encode i = .packet p →
    ((∃ c l, i = .cmdWave c l) ∨ (∃ c q f g, i = .cmdChar c q f g) ∨ (∃ q, i = .cmdRect5 q) ∨
      (∃ q c, i = .cmdRect8 q c) ∨ (∃ q z, i = .cmdRect9 q z) ∨ (∃ q z c, i = .cmdRect12 q z c)) →
    runBytes (frame p) s = exec i s

/-! ## Names for the outside -/

/-- The register images and the error codes: `FSTATE` is `0` for Normal and `1` for Escaped, `COLOUR` is packed `r`,
`g`, `b` from the top, a legal `LEN` fits its register, and the seven kinds are numbered 1 to 7 (R16, R18, R19, R98).
The encoding, the packing, the width and the numbers are the spec's own decisions D11 and D13 (log entry 15). -/
def Obligations.RegisterImagesAndErrorCodes : Prop :=
  FState.normal.bit = 0 ∧ FState.escaped.bit = 1 ∧ (∀ f : FState, FState.ofBit f.bit = f) ∧
  (∀ c : Colour, c.image.extractLsb' 16 8 = c.r ∧ c.image.extractLsb' 8 8 = c.g ∧ c.image.extractLsb' 0 8 = c.b) ∧
  (∀ s : State, s.len ≤ s.params.cap → s.len < 2 ^ lenWidth s.params.cap) ∧
  ErrorEvent.bufferOverflow.code = 1 ∧ (∀ b, (ErrorEvent.unknownEscapedByte b).code = 2) ∧
  ErrorEvent.rectangleInvalidFormat.code = 3 ∧ ErrorEvent.characterInvalidFormat.code = 4 ∧
  ErrorEvent.waveformInvalidFormat.code = 5 ∧ ErrorEvent.systemInfoInvalidFormat.code = 6 ∧
  (∀ tag, (ErrorEvent.unrecognizedCommand tag).code = 7) ∧ (∀ e : ErrorEvent, e.code ≠ 0)

/-! ## Step lemmas behind the run statements -/

/-- A step adds to `CMDS` exactly the commands of the events it adds to the trace (R90, R116); a `CycleStart` (R91) and a
`Reset` (R92) add no event and leave `CMDS` empty. What a Reset does to `CMDS` and the trace is the spec's own decision D6
(log entry 8); the trace is the model's field (log entry 2). -/
def Obligations.StepAddsTheCommandsOfItsEvents : Prop :=
  ∀ s t : State, step s = .next t → ∃ ev : List OutEvent, t.trace = s.trace ++ ev ∧
    (s.inputs.head? ≠ some .reset → s.inputs.head? ≠ some .cycleStart → t.cmds = s.cmds ++ commandsOf ev) ∧
    (s.inputs.head? = some .reset ∨ s.inputs.head? = some .cycleStart → ev = [] ∧ t.cmds = [])

/-- Agreement on the trace, the framer, the colour context and the parameters is kept by every step of both states on the
same input, and by a `CycleStart` that only one of them takes (R95, R119): the command list feeds nothing back. -/
def Obligations.StepsKeepDecodingAlike : Prop :=
  ∀ s u t : State, s.DecodesAlike u → step s = .next t →
    (s.inputs.head? = some .cycleStart → t.DecodesAlike u) ∧
    (∀ v, s.inputs.head? = u.inputs.head? → step u = .next v → t.DecodesAlike v)
end

