-- ==== Sys2Proof/Laws/Decode.lean ====
section
/-! SUPPORT. Small lemmas of the operand readers and of the encoder's layouts: a field read back where it was written
(R13, R29, R30), and a key taken apart (R41). -/

namespace Sys2Proof

@[simp] theorem byteAt_zero (a : Byte) (p : List Byte) : byteAt (a :: p) 0 = a := by simp [byteAt]
@[simp] theorem byteAt_succ (a : Byte) (p : List Byte) (i : Nat) : byteAt (a :: p) (i + 1) = byteAt p i := by
  simp [byteAt]

/-- The decode map on a packet with a tag (R55, rows 2 to 14). -/
theorem decodePacket_cons (t : Byte) (p : List Byte) :
    decodePacket (t :: p) =
      if t = tagWaveform then
        if waveLengthOk (p.length + 1) then .cmdWave (rgb (t :: p) 1) (bytesFrom (t :: p) 4) else .cmdWaveBadlen p
      else if t = tagCharacter then
        if charLengthOk (p.length + 1) then
          .cmdChar (byteAt p 0) (posAt (t :: p) 2) (rgb (t :: p) 6) (rgb (t :: p) 9)
        else .cmdCharBadlen p
      else if t = tagRectangle then
        if p.length + 1 = 5 then .cmdRect5 (posAt (t :: p) 1)
        else if p.length + 1 = 8 then .cmdRect8 (posAt (t :: p) 1) (rgb (t :: p) 5)
        else if p.length + 1 = 9 then .cmdRect9 (posAt (t :: p) 1) (sizeAt (t :: p) 5)
        else if p.length + 1 = 12 then .cmdRect12 (posAt (t :: p) 1) (sizeAt (t :: p) 5) (rgb (t :: p) 9)
        else .cmdRectBadlen p
      else if t = tagSysinfo then
        if sysinfoLengthOk (p.length + 1) then
          .cmdSysinfo (byteAt p 0) (byteAt p 1) (byteAt p 2) (byteAt p 3) (byteAt p 4) (bytesFrom p 5)
        else .cmdSysinfoBadlen p
      else if t = tagKeypress then .cmdKeypress p
      else .cmdUnrecognized t p := by
  simp [decodePacket, bytesFrom, byteAt]

/-- A 16-bit field laid out low byte first reads back as itself (R29). -/
theorem half_readback (v : Half) :
    (v.extractLsb' 0 8).setWidth 16 ||| ((v.extractLsb' 8 8).setWidth 16 <<< 8) = v := by
  apply BitVec.eq_of_getLsbD_eq
  intro i hi
  simp only [BitVec.getLsbD_or, BitVec.getLsbD_setWidth, BitVec.getLsbD_extractLsb', BitVec.getLsbD_shiftLeft]
  by_cases h : i < 8
  · simp [h, hi]
  · have h8 : i - 8 < 8 := by omega
    have e : 8 + (i - 8) = i := by omega
    have h16 : i - 8 < 16 := by omega
    simp [h, hi, h8, e, h16]

/-- The two bytes of a field are its low and its high eight bits (R29). -/
theorem low_of_le16 (a b : Byte) : (a.setWidth 16 ||| (b.setWidth 16 <<< 8) : Half).extractLsb' 0 8 = a := by
  apply BitVec.eq_of_getLsbD_eq
  intro i hi
  simp only [BitVec.getLsbD_or, BitVec.getLsbD_setWidth, BitVec.getLsbD_extractLsb', BitVec.getLsbD_shiftLeft]
  have h16 : i < 16 := by omega
  simp [hi, h16]

theorem high_of_le16 (a b : Byte) : (a.setWidth 16 ||| (b.setWidth 16 <<< 8) : Half).extractLsb' 8 8 = b := by
  apply BitVec.eq_of_getLsbD_eq
  intro i hi
  simp only [BitVec.getLsbD_or, BitVec.getLsbD_setWidth, BitVec.getLsbD_extractLsb', BitVec.getLsbD_shiftLeft]
  have h16 : 8 + i < 16 := by omega
  simp [hi, h16]
  omega

theorem keyByte_framerKey (f : FState) (b : Byte) : keyByte (framerKey f b) = b := by
  apply BitVec.eq_of_getLsbD_eq
  intro i hi
  simp only [keyByte, framerKey, BitVec.getLsbD_extractLsb', BitVec.getLsbD_append]
  simp [hi]

theorem keyState_framerKey (f : FState) (b : Byte) : keyState (framerKey f b) = f := by
  have h : (framerKey f b).extractLsb' 8 1 = f.bit := by
    apply BitVec.eq_of_getLsbD_eq
    intro i hi
    have : i = 0 := by omega
    subst this
    simp only [framerKey, BitVec.getLsbD_extractLsb', BitVec.getLsbD_append]
    simp
  cases f <;> simp [keyState, h, FState.ofBit, FState.bit]

theorem framerKey_keyState (k : BitVec 9) : framerKey (keyState k) (keyByte k) = k := by
  have h : (keyState k).bit = k.extractLsb' 8 1 := by
    unfold keyState FState.ofBit
    generalize k.extractLsb' 8 1 = v
    revert v; decide
  rw [framerKey, h]
  apply BitVec.eq_of_getLsbD_eq
  intro i hi
  simp only [BitVec.getLsbD_append, keyByte, BitVec.getLsbD_extractLsb']
  by_cases h8 : i < 8
  · simp [h8]
  · have : i = 8 := by omega
    subst this; simp

end Sys2Proof
end

