-- ==== Sys2Proof/Laws/State.lean ====
section
/-! SUPPORT. One lemma per field of State per register write of Machine/Ops.lean, each true by rfl, so that no later
proof unfolds a record update. -/

namespace Sys2Proof.Machine

variable (s : State)

@[simp] theorem State.setFstate_params (f : FState) : (s.setFstate f).params = s.params := rfl
@[simp] theorem State.setFstate_fstate (f : FState) : (s.setFstate f).fstate = f := rfl
@[simp] theorem State.setFstate_buf (f : FState) : (s.setFstate f).buf = s.buf := rfl
@[simp] theorem State.setFstate_colour (f : FState) : (s.setFstate f).colour = s.colour := rfl
@[simp] theorem State.setFstate_cmds (f : FState) : (s.setFstate f).cmds = s.cmds := rfl
@[simp] theorem State.setFstate_inputs (f : FState) : (s.setFstate f).inputs = s.inputs := rfl
@[simp] theorem State.setFstate_trace (f : FState) : (s.setFstate f).trace = s.trace := rfl

@[simp] theorem State.setBuf_params (p : List Byte) : (s.setBuf p).params = s.params := rfl
@[simp] theorem State.setBuf_fstate (p : List Byte) : (s.setBuf p).fstate = s.fstate := rfl
@[simp] theorem State.setBuf_buf (p : List Byte) : (s.setBuf p).buf = p := rfl
@[simp] theorem State.setBuf_colour (p : List Byte) : (s.setBuf p).colour = s.colour := rfl
@[simp] theorem State.setBuf_cmds (p : List Byte) : (s.setBuf p).cmds = s.cmds := rfl
@[simp] theorem State.setBuf_inputs (p : List Byte) : (s.setBuf p).inputs = s.inputs := rfl
@[simp] theorem State.setBuf_trace (p : List Byte) : (s.setBuf p).trace = s.trace := rfl

@[simp] theorem State.setColour_params (c : Colour) : (s.setColour c).params = s.params := rfl
@[simp] theorem State.setColour_fstate (c : Colour) : (s.setColour c).fstate = s.fstate := rfl
@[simp] theorem State.setColour_buf (c : Colour) : (s.setColour c).buf = s.buf := rfl
@[simp] theorem State.setColour_colour (c : Colour) : (s.setColour c).colour = c := rfl
@[simp] theorem State.setColour_cmds (c : Colour) : (s.setColour c).cmds = s.cmds := rfl
@[simp] theorem State.setColour_inputs (c : Colour) : (s.setColour c).inputs = s.inputs := rfl
@[simp] theorem State.setColour_trace (c : Colour) : (s.setColour c).trace = s.trace := rfl

@[simp] theorem State.setCmds_params (l : List Command) : (s.setCmds l).params = s.params := rfl
@[simp] theorem State.setCmds_fstate (l : List Command) : (s.setCmds l).fstate = s.fstate := rfl
@[simp] theorem State.setCmds_buf (l : List Command) : (s.setCmds l).buf = s.buf := rfl
@[simp] theorem State.setCmds_colour (l : List Command) : (s.setCmds l).colour = s.colour := rfl
@[simp] theorem State.setCmds_cmds (l : List Command) : (s.setCmds l).cmds = l := rfl
@[simp] theorem State.setCmds_inputs (l : List Command) : (s.setCmds l).inputs = s.inputs := rfl
@[simp] theorem State.setCmds_trace (l : List Command) : (s.setCmds l).trace = s.trace := rfl

@[simp] theorem State.setInputs_params (l : List Input) : (s.setInputs l).params = s.params := rfl
@[simp] theorem State.setInputs_fstate (l : List Input) : (s.setInputs l).fstate = s.fstate := rfl
@[simp] theorem State.setInputs_buf (l : List Input) : (s.setInputs l).buf = s.buf := rfl
@[simp] theorem State.setInputs_colour (l : List Input) : (s.setInputs l).colour = s.colour := rfl
@[simp] theorem State.setInputs_cmds (l : List Input) : (s.setInputs l).cmds = s.cmds := rfl
@[simp] theorem State.setInputs_inputs (l : List Input) : (s.setInputs l).inputs = l := rfl
@[simp] theorem State.setInputs_trace (l : List Input) : (s.setInputs l).trace = s.trace := rfl

@[simp] theorem State.emit_params (e : OutEvent) : (s.emit e).params = s.params := rfl
@[simp] theorem State.emit_fstate (e : OutEvent) : (s.emit e).fstate = s.fstate := rfl
@[simp] theorem State.emit_buf (e : OutEvent) : (s.emit e).buf = s.buf := rfl
@[simp] theorem State.emit_colour (e : OutEvent) : (s.emit e).colour = s.colour := rfl
@[simp] theorem State.emit_cmds (e : OutEvent) : (s.emit e).cmds = s.cmds := rfl
@[simp] theorem State.emit_inputs (e : OutEvent) : (s.emit e).inputs = s.inputs := rfl
@[simp] theorem State.emit_trace (e : OutEvent) : (s.emit e).trace = s.trace ++ [e] := rfl

@[simp] theorem State.raise_params (e : ErrorEvent) : (s.raise e).params = s.params := rfl
@[simp] theorem State.raise_fstate (e : ErrorEvent) : (s.raise e).fstate = s.fstate := rfl
@[simp] theorem State.raise_buf (e : ErrorEvent) : (s.raise e).buf = s.buf := rfl
@[simp] theorem State.raise_colour (e : ErrorEvent) : (s.raise e).colour = s.colour := rfl
@[simp] theorem State.raise_cmds (e : ErrorEvent) : (s.raise e).cmds = s.cmds := rfl
@[simp] theorem State.raise_inputs (e : ErrorEvent) : (s.raise e).inputs = s.inputs := rfl
@[simp] theorem State.raise_trace (e : ErrorEvent) : (s.raise e).trace = s.trace ++ [.err e] := rfl

@[simp] theorem State.construct_params (p : Params) : (State.construct p).params = p := rfl
@[simp] theorem State.construct_fstate (p : Params) : (State.construct p).fstate = .normal := rfl
@[simp] theorem State.construct_buf (p : Params) : (State.construct p).buf = [] := rfl
@[simp] theorem State.construct_colour (p : Params) : (State.construct p).colour = p.resetColour := rfl
@[simp] theorem State.construct_cmds (p : Params) : (State.construct p).cmds = [] := rfl
@[simp] theorem State.construct_inputs (p : Params) : (State.construct p).inputs = [] := rfl
@[simp] theorem State.construct_trace (p : Params) : (State.construct p).trace = [] := rfl

@[simp] theorem State.len_eq : s.len = s.buf.length := rfl
@[simp] theorem State.bufAt_eq (i : Nat) : s.bufAt i = s.buf[i]? := rfl

/-- Two states with equal fields are equal. -/
theorem State.eq_of_fields {s t : State} (hp : s.params = t.params) (hf : s.fstate = t.fstate) (hb : s.buf = t.buf)
    (hc : s.colour = t.colour) (hm : s.cmds = t.cmds) (hi : s.inputs = t.inputs) (ht : s.trace = t.trace) : s = t := by
  cases s; cases t; simp_all

end Sys2Proof.Machine
end

