-- ==== Sys2Proof/Laws/Ops.lean ====
section
/-! SUPPORT. One lemma per shared operation saying once everything it can do: the append and the framer's rows, applying
a parse's outcome, what a parse can answer, and how a run is composed. -/

namespace Sys2Proof.Machine

/-! ### The framer's operations -/

theorem append_room {v : Byte} {s : State} (h : s.buf.length ≠ s.params.cap) :
    append v s = (s.setBuf (s.buf ++ [v]), .nothing) := if_neg h

theorem append_full {v : Byte} {s : State} (h : s.buf.length = s.params.cap) :
    append v s = framerError .bufferOverflow s := if_pos h

/-- Everything an append can do (R62). -/
theorem append_cases (v : Byte) (s : State) :
    (s.buf.length ≠ s.params.cap ∧ append v s = (s.setBuf (s.buf ++ [v]), .nothing)) ∨
    (s.buf.length = s.params.cap ∧ append v s = framerError .bufferOverflow s) := by
  by_cases h : s.buf.length = s.params.cap
  · exact .inr ⟨h, append_full h⟩
  · exact .inl ⟨h, append_room h⟩

/-- An append never takes the buffer past its capacity (R17). -/
theorem append_len_le (v : Byte) {s : State} (h : s.len ≤ s.params.cap) :
    (append v s).1.len ≤ (append v s).1.params.cap := by
  obtain ⟨hne, e⟩ | ⟨-, e⟩ := append_cases v s <;> rw [e]
  · simp at h ⊢; omega
  · simp [framerError]

theorem frmEnd_empty {s : State} (h : s.buf = []) : frmEnd s = (s, .nothing) := by simp [frmEnd, h]

theorem frmEnd_packet {s : State} (h : s.buf ≠ []) : frmEnd s = (s.setBuf [], .packet s.buf) := by
  simp [frmEnd, List.length_pos_iff, h]

/-- Everything the framer can do with one byte: the six rows of R42, by the framer state and the byte. -/
theorem feed_cases (b : Byte) (s : State) :
    (s.fstate = .normal ∧ b = frameEnd ∧ feed b s = frmEnd s) ∨
    (s.fstate = .normal ∧ b = frameEsc ∧ feed b s = (s.setFstate .escaped, .nothing)) ∨
    (s.fstate = .normal ∧ b ≠ frameEnd ∧ b ≠ frameEsc ∧ feed b s = append b s) ∨
    (s.fstate = .escaped ∧ b = frameEscEnd ∧ feed b s = append frameEnd (s.setFstate .normal)) ∨
    (s.fstate = .escaped ∧ b = frameEscEsc ∧ feed b s = append frameEsc (s.setFstate .normal)) ∨
    (s.fstate = .escaped ∧ b ≠ frameEscEnd ∧ b ≠ frameEscEsc ∧
      feed b s = framerError (.unknownEscapedByte b) s) := by
  have hEnd : frameEsc ≠ frameEnd := by decide
  have hEsc : frameEscEsc ≠ frameEscEnd := by decide
  cases hf : s.fstate with
  | normal =>
    by_cases h1 : b = frameEnd
    · simp [feed, hf, h1]
    · by_cases h2 : b = frameEsc
      · simp [feed, hf, h2, hEnd, frmEsc]
      · simp [feed, hf, h1, h2, frmData]
  | escaped =>
    by_cases h1 : b = frameEscEnd
    · simp [feed, hf, h1, frmXend]
    · by_cases h2 : b = frameEscEsc
      · simp [feed, hf, h2, hEsc, frmXesc]
      · simp [feed, hf, h1, h2, frmXbad]

/-! ### Applying a parse's outcome -/

section
variable (s : State) (r : ParseOutcome × Colour)

@[simp] theorem State.deliver_params : (s.deliver r).params = s.params := by
  rcases r with ⟨_ | _ | _, _⟩ <;> rfl
@[simp] theorem State.deliver_fstate : (s.deliver r).fstate = s.fstate := by
  rcases r with ⟨_ | _ | _, _⟩ <;> rfl
@[simp] theorem State.deliver_buf : (s.deliver r).buf = s.buf := by
  rcases r with ⟨_ | _ | _, _⟩ <;> rfl
@[simp] theorem State.deliver_inputs : (s.deliver r).inputs = s.inputs := by
  rcases r with ⟨_ | _ | _, _⟩ <;> rfl
@[simp] theorem State.deliver_colour : (s.deliver r).colour = r.2 := by
  rcases r with ⟨_ | _ | _, _⟩ <;> rfl

end

/-- The event an outcome adds to the trace: one, or none where the packet is ignored (R90). -/
def ParseOutcome.events : ParseOutcome → List OutEvent
  | .cmd c => [.cmd c]
  | .ignored => []
  | .err e => [.err e]

theorem State.deliver_trace (s : State) (r : ParseOutcome × Colour) :
    (s.deliver r).trace = s.trace ++ ParseOutcome.events r.1 := by
  rcases r with ⟨_ | _ | _, _⟩ <;> simp [State.deliver, ParseOutcome.events]

theorem State.deliver_cmds (s : State) (r : ParseOutcome × Colour) :
    (s.deliver r).cmds = s.cmds ++ commandsOf (ParseOutcome.events r.1) := by
  rcases r with ⟨_ | _ | _, _⟩ <;> simp [State.deliver, ParseOutcome.events, commandsOf, OutEvent.command]

/-- Settling the framer's yield, said once: the events it adds and the commands among them. -/
theorem settle_nothing (s : State) : settle (s, .nothing) = s := rfl
theorem settle_error (s : State) (e : ErrorEvent) : settle (s, .error e) = s.raise e := rfl
theorem settle_packet (s : State) (p : List Byte) : settle (s, .packet p) = s.deliver (parse p s.colour) := rfl

/-! ### States that decode alike -/

theorem State.DecodesAlike.refl (s : State) : s.DecodesAlike s := ⟨rfl, rfl, rfl, rfl, rfl⟩

/-- Applying the same outcome keeps agreement: it reads the command list nowhere else. -/
theorem State.DecodesAlike.deliver {s u : State} (h : s.DecodesAlike u) (r : ParseOutcome × Colour) :
    (s.deliver r).DecodesAlike (u.deliver r) := by
  constructor <;> simp [State.deliver_trace, h.same_trace, h.same_fstate, h.same_buf, h.same_params]

/-! ### Outcomes and runs -/

theorem next_inj {s t : State} (h : (Host.Outcome.next s : Host.Outcome State Fault Refusal) = .next t) : t = s := by
  cases h; rfl


/-- A run of one input list after another is the second from where the first ends. -/
theorem runInputs_append {es fs : List Input} {s t : State} (h : runInputs es s = .next t) :
    runInputs (es ++ fs) s = runInputs fs t := by
  induction es generalizing s with
  | nil => simp [runInputs] at h; simp [h]
  | cons e es ih =>
    simp only [runInputs, List.cons_append] at h ⊢
    split at h
    · next u hu => simp [ih h]
    · cases h
    · cases h

theorem runInputs_cons {e : Input} {es : List Input} {s t : State} (h : exec (decode (.event e)) s = .next t) :
    runInputs (e :: es) s = runInputs es t := by simp [runInputs, h]

/-- The same of wire streams. -/
theorem runBytes_cons {b : Byte} {raw : List Byte} {s t : State} (h : exec (.byte b) s = .next t) :
    runBytes (b :: raw) s = runBytes raw t := runInputs_cons (e := .byte b) h

theorem runBytes_append {raw more : List Byte} {s t : State} (h : runBytes raw s = .next t) :
    runBytes (raw ++ more) s = runBytes more t := by
  unfold runBytes at *
  rw [List.map_append]
  exact runInputs_append h

end Sys2Proof.Machine
end

