-- ==== Sys2Proof/Laws/PerInstr.lean ====
section
/-! SUPPORT. The family RoundTrip, one lemma per constructor of Instr: the code of a well-formed instruction decodes to
that instruction (R42, R55, R59). -/

namespace Sys2Proof.Laws.RoundTrip

/-- The statement of the family. -/
def Statement (i : Instr) : Prop := i.wf = true → decode (encode i) = i

theorem reset : Statement .reset := fun _ => rfl
theorem cycleStart : Statement .cycleStart := fun _ => rfl
theorem byte (b : Byte) : Statement (.byte b) := fun _ => rfl
theorem frmEnd : Statement .frmEnd := fun _ => rfl
theorem frmEsc : Statement .frmEsc := fun _ => rfl
theorem frmXend : Statement .frmXend := fun _ => rfl
theorem frmXesc : Statement .frmXesc := fun _ => rfl

theorem frmData (b : Byte) : Statement (.frmData b) := by
  intro h
  simp only [Instr.wf, Bool.and_eq_true, bne_iff_ne, ne_eq] at h
  simp [encode, decode, decodeKey, keyState_framerKey, keyByte_framerKey, h]

theorem frmXbad (b : Byte) : Statement (.frmXbad b) := by
  intro h
  simp only [Instr.wf, Bool.and_eq_true, bne_iff_ne, ne_eq] at h
  simp [encode, decode, decodeKey, keyState_framerKey, keyByte_framerKey, h]

theorem cmdEmpty : Statement .cmdEmpty := fun _ => rfl

theorem cmdWave (c : Colour) (samples : List Byte) : Statement (.cmdWave c samples) := by
  intro h
  simp only [Instr.wf] at h
  have hn : (tagWaveform :: (colourBytes c ++ samples)).length = 4 + samples.length := by
    simp [colourBytes]; omega
  simp only [encode, decode, decodePacket, hn, h]
  simp [rgb, bytesFrom, colourBytes, byteAt]

theorem cmdWaveBadlen (rest : List Byte) : Statement (.cmdWaveBadlen rest) := by
  intro h
  simp only [Instr.wf, Bool.not_eq_true', Nat.add_comm 1] at h
  simp [encode, decode, decodePacket, h, bytesFrom]

theorem cmdChar (code : Byte) (pos : Position) (fg bg : Colour) : Statement (.cmdChar code pos fg bg) := by
  intro _
  simp [encode, decode, decodePacket, posBytes, colourBytes, halfBytes, byteAt, posAt, le16, rgb, half_readback,
    tagCharacter, tagWaveform, charLengthOk]

theorem cmdCharBadlen (rest : List Byte) : Statement (.cmdCharBadlen rest) := by
  intro h
  simp only [Instr.wf, Bool.not_eq_true', Nat.add_comm 1] at h
  have ht : tagCharacter ≠ tagWaveform := by decide
  simp [encode, decode, decodePacket, h, bytesFrom, ht]

theorem cmdRect5 (pos : Position) : Statement (.cmdRect5 pos) := by
  intro _
  simp [encode, decode, decodePacket, posBytes, halfBytes, byteAt, posAt, le16, half_readback, tagRectangle,
    tagCharacter, tagWaveform]

theorem cmdRect8 (pos : Position) (c : Colour) : Statement (.cmdRect8 pos c) := by
  intro _
  simp [encode, decode, decodePacket, posBytes, colourBytes, halfBytes, byteAt, posAt, le16, rgb, half_readback,
    tagRectangle, tagCharacter, tagWaveform]

theorem cmdRect9 (pos : Position) (size : Size) : Statement (.cmdRect9 pos size) := by
  intro _
  simp [encode, decode, decodePacket, posBytes, sizeBytes, halfBytes, byteAt, posAt, sizeAt, le16, half_readback,
    tagRectangle, tagCharacter, tagWaveform]

theorem cmdRect12 (pos : Position) (size : Size) (c : Colour) : Statement (.cmdRect12 pos size c) := by
  intro _
  simp [encode, decode, decodePacket, posBytes, sizeBytes, colourBytes, halfBytes, byteAt, posAt, sizeAt, le16, rgb,
    half_readback, tagRectangle, tagCharacter, tagWaveform]

theorem cmdRectBadlen (rest : List Byte) : Statement (.cmdRectBadlen rest) := by
  intro h
  have ht : tagRectangle ≠ tagWaveform ∧ tagRectangle ≠ tagCharacter := by decide
  simp only [Instr.wf, rectLengthOk, Nat.add_comm 1, Bool.not_eq_true', Bool.or_eq_false_iff, beq_eq_false_iff_ne] at h
  simp only [encode, decode, decodePacket, List.length_cons, byteAt_zero, ht, h]
  simp [bytesFrom]

theorem cmdSysinfo (hw major minor patch font : Byte) (rest : List Byte) :
    Statement (.cmdSysinfo hw major minor patch font rest) := by
  intro _
  simp [encode, decode, decodePacket, byteAt, bytesFrom, tagSysinfo, tagRectangle, tagCharacter, tagWaveform,
    sysinfoLengthOk]

theorem cmdSysinfoBadlen (rest : List Byte) : Statement (.cmdSysinfoBadlen rest) := by
  intro h
  have ht : tagSysinfo ≠ tagWaveform ∧ tagSysinfo ≠ tagCharacter ∧ tagSysinfo ≠ tagRectangle := by decide
  simp only [Instr.wf, Bool.not_eq_true', Nat.add_comm 1] at h
  simp [encode, decode, decodePacket, h, bytesFrom, ht]

theorem cmdKeypress (rest : List Byte) : Statement (.cmdKeypress rest) := by
  intro _
  simp [encode, decode, decodePacket, bytesFrom, tagKeypress, tagSysinfo, tagRectangle, tagCharacter, tagWaveform]

theorem cmdUnrecognized (tag : Byte) (rest : List Byte) : Statement (.cmdUnrecognized tag rest) := by
  intro h
  simp only [Instr.wf, knownTag, Bool.not_eq_true', Bool.or_eq_false_iff, beq_eq_false_iff_ne] at h
  simp [encode, decode, decodePacket, bytesFrom, h]

end Sys2Proof.Laws.RoundTrip
end

