-- ==== Sys2Proof/Tests/Slice0.lean ====
section
/-! SUPPORT. The model's own tests: ill-formed instructions refused, every constructor's decoding from a word written
out from the spec, single steps with the results of 95_test_vectors.md, and a witness for the hypotheses of every
statement that has some. -/

namespace Sys2Proof.Tests

open Sys2Proof.Machine

/-- `n` bytes `55` (95_test_vectors.md W5). -/
def bytes55 (n : Nat) : List Byte := List.replicate n 0x55

theorem bytes55_length (n : Nat) : (bytes55 n).length = n := List.length_replicate

/-! ### Well-formedness: one ill-formed term for each check, and the legal neighbour (R42, R55) -/

theorem test_wf_frmData : (Instr.frmData 0xC0).wf = false ∧ (Instr.frmData 0xDB).wf = false ∧
    (Instr.frmData 0xDC).wf = true := by decide
theorem test_wf_frmXbad : (Instr.frmXbad 0xDC).wf = false ∧ (Instr.frmXbad 0xDD).wf = false ∧
    (Instr.frmXbad 0xC0).wf = true := by decide
theorem test_wf_cmdWave : (Instr.cmdWave ⟨0, 0, 0⟩ (bytes55 481)).wf = false ∧
    (Instr.cmdWave ⟨0, 0, 0⟩ (bytes55 480)).wf = true := by simp [Instr.wf, waveLengthOk, bytes55_length]
theorem test_wf_cmdWaveBadlen : (Instr.cmdWaveBadlen [0x10, 0x20, 0x30]).wf = false ∧
    (Instr.cmdWaveBadlen [0x10, 0x20]).wf = true := by decide
theorem test_wf_cmdCharBadlen : (Instr.cmdCharBadlen (List.replicate 11 0)).wf = false ∧
    (Instr.cmdCharBadlen (List.replicate 10 0)).wf = true := by decide
theorem test_wf_cmdRectBadlen : (Instr.cmdRectBadlen (List.replicate 4 0)).wf = false ∧
    (Instr.cmdRectBadlen (List.replicate 7 0)).wf = false ∧ (Instr.cmdRectBadlen (List.replicate 8 0)).wf = false ∧
    (Instr.cmdRectBadlen (List.replicate 11 0)).wf = false ∧ (Instr.cmdRectBadlen (List.replicate 5 0)).wf = true := by
  decide
theorem test_wf_cmdSysinfoBadlen : (Instr.cmdSysinfoBadlen (List.replicate 5 0)).wf = false ∧
    (Instr.cmdSysinfoBadlen (List.replicate 4 0)).wf = true := by decide
theorem test_wf_cmdUnrecognized : (Instr.cmdUnrecognized 0xFB []).wf = false ∧
    (Instr.cmdUnrecognized 0xFC []).wf = false ∧ (Instr.cmdUnrecognized 0xFD []).wf = false ∧
    (Instr.cmdUnrecognized 0xFE []).wf = false ∧ (Instr.cmdUnrecognized 0xFF []).wf = false ∧
    (Instr.cmdUnrecognized 0xFA []).wf = true := by decide

/-! ### Decoding, word by word (R39; the keys of R42 as `FSTATE` and eight bits; the packets of §2.3) -/

theorem test_decode_reset : decode (.event .reset) = .reset := by decide
theorem test_decode_cycleStart : decode (.event .cycleStart) = .cycleStart := by decide
theorem test_decode_byte : decode (.event (.byte 0x41)) = .byte 0x41 := by decide
theorem test_decode_frmEnd : decode (.key 0b0_11000000) = .frmEnd := by decide
theorem test_decode_frmEsc : decode (.key 0b0_11011011) = .frmEsc := by decide
theorem test_decode_frmData : decode (.key 0b0_01000001) = .frmData 0x41 ∧
    decode (.key 0b0_11011101) = .frmData 0xDD := by decide
theorem test_decode_frmXend : decode (.key 0b1_11011100) = .frmXend := by decide
theorem test_decode_frmXesc : decode (.key 0b1_11011101) = .frmXesc := by decide
theorem test_decode_frmXbad : decode (.key 0b1_11000000) = .frmXbad 0xC0 ∧
    decode (.key 0b1_11011011) = .frmXbad 0xDB := by decide
theorem test_decode_cmdEmpty : decode (.packet []) = .cmdEmpty := by decide
theorem test_decode_cmdWave : decode (.packet [0xFC, 0x10, 0x20, 0x30]) = .cmdWave ⟨0x10, 0x20, 0x30⟩ [] ∧
    decode (.packet ([0xFC, 0x10, 0x20, 0x30] ++ bytes55 480)) =
      .cmdWave ⟨0x10, 0x20, 0x30⟩ (bytes55 480) := by
  simp [decode, decodePacket, byteAt, tagWaveform, waveLengthOk, rgb, bytesFrom, bytes55_length]
theorem test_decode_cmdWaveBadlen : decode (.packet [0xFC, 0x10, 0x20]) = .cmdWaveBadlen [0x10, 0x20] ∧
    decode (.packet ([0xFC, 0x10, 0x20, 0x30] ++ bytes55 481)) =
      .cmdWaveBadlen ([0x10, 0x20, 0x30] ++ bytes55 481) := by
  simp [decode, decodePacket, byteAt, tagWaveform, waveLengthOk, bytesFrom, bytes55_length]
theorem test_decode_cmdChar :
    decode (.packet [0xFD, 0x41, 0x0A, 0x00, 0x14, 0x00, 0xFF, 0xFF, 0xFF, 0x00, 0x00, 0x00]) =
      .cmdChar 0x41 ⟨10, 20⟩ ⟨255, 255, 255⟩ ⟨0, 0, 0⟩ := by decide
theorem test_decode_cmdCharBadlen : decode (.packet [0xFD, 0x41, 0x0A, 0x00]) = .cmdCharBadlen [0x41, 0x0A, 0x00] := by
  decide
theorem test_decode_cmdRect5 : decode (.packet [0xFE, 0x34, 0x12, 0x78, 0x56]) = .cmdRect5 ⟨4660, 22136⟩ := by decide
theorem test_decode_cmdRect8 : decode (.packet [0xFE, 0x0A, 0x00, 0x0B, 0x00, 0xFF, 0x00, 0x01]) =
    .cmdRect8 ⟨10, 11⟩ ⟨255, 0, 1⟩ := by decide
theorem test_decode_cmdRect9 : decode (.packet [0xFE, 0x01, 0x00, 0x02, 0x00, 0x03, 0x00, 0x04, 0x00]) =
    .cmdRect9 ⟨1, 2⟩ ⟨3, 4⟩ := by decide
theorem test_decode_cmdRect12 :
    decode (.packet [0xFE, 0x00, 0x01, 0x00, 0x02, 0x10, 0x00, 0x20, 0x00, 0x0A, 0x0B, 0x0C]) =
      .cmdRect12 ⟨256, 512⟩ ⟨16, 32⟩ ⟨10, 11, 12⟩ := by decide
theorem test_decode_cmdRectBadlen : decode (.packet [0xFE, 0x14, 0x00, 0x28, 0x00, 0xFF]) =
    .cmdRectBadlen [0x14, 0x00, 0x28, 0x00, 0xFF] := by decide
theorem test_decode_cmdSysinfo : decode (.packet [0xFF, 0x03, 0x01, 0x02, 0x05, 0x01, 0x99]) =
    .cmdSysinfo 3 1 2 5 1 [0x99] := by decide
theorem test_decode_cmdSysinfoBadlen : decode (.packet [0xFF, 0x03, 0x01, 0x02, 0x05]) =
    .cmdSysinfoBadlen [0x03, 0x01, 0x02, 0x05] := by decide
theorem test_decode_cmdKeypress : decode (.packet [0xFB, 0x01, 0x00]) = .cmdKeypress [0x01, 0x00] := by decide
theorem test_decode_cmdUnrecognized : decode (.packet [0xFA, 0x00, 0x00, 0x00, 0x00]) =
    .cmdUnrecognized 0xFA [0, 0, 0, 0] ∧ decode (.packet [0xC0, 0x01]) = .cmdUnrecognized 0xC0 [0x01] := by decide

theorem test_frame_escapes : frame [0xFE, 0xC0, 0xDB, 0xDC] = [0xFE, 0xDB, 0xDC, 0xDB, 0xDD, 0xDC, 0xC0] := by decide

/-! ### One step on a small state -/

/-- A session with `CAP = 3`, `RESET_COLOUR = (1,2,3)` and the framer as given. -/
def tiny (f : FState) (buf : List Byte) : State :=
  { State.construct ⟨3, ⟨1, 2, 3⟩⟩ with fstate := f, buf := buf }

/-- A session with `CAP = 1024` and the framer as given. -/
def roomy (f : FState) (buf : List Byte) : State := { State.reset with fstate := f, buf := buf }

/-- A state's framer, the commands and the output. -/
def seen (o : Host.Outcome State Fault Refusal) : Option (FState × List Byte × List OutEvent) :=
  (nextState o).map fun t => (t.fstate, t.buf, t.trace)

/-- A command list's, colour context's and trace's view of an outcome. -/
def drawn (o : Host.Outcome State Fault Refusal) : Option (Colour × List Command × List OutEvent) :=
  (nextState o).map fun t => (t.colour, t.cmds, t.trace)

-- FV1, FV16 (a full buffer is emitted whole)
theorem test_frmEnd : seen (exec .frmEnd (tiny .normal [])) = some (.normal, [], []) ∧
    seen (exec .frmEnd (tiny .normal [0x01, 0x02, 0x03])) =
      some (.normal, [], [.err (.unrecognizedCommand 0x01)]) := by decide
-- FV17
theorem test_frmEsc : seen (exec .frmEsc (tiny .normal [0x01, 0x02, 0x03])) =
    some (.escaped, [0x01, 0x02, 0x03], []) := by decide
-- FV21, FV15
theorem test_frmData : seen (exec (.frmData 0x03) (tiny .normal [0x01, 0x02])) =
      some (.normal, [0x01, 0x02, 0x03], []) ∧
    seen (exec (.frmData 0x04) (tiny .normal [0x01, 0x02, 0x03])) = some (.normal, [], [.err .bufferOverflow]) := by
  decide
-- FV9, FV18
theorem test_frmXend : seen (exec .frmXend (tiny .escaped [0xFE])) = some (.normal, [0xFE, 0xC0], []) ∧
    seen (exec .frmXend (tiny .escaped [0x01, 0x02, 0x03])) = some (.normal, [], [.err .bufferOverflow]) := by decide
-- FV10, FV19
theorem test_frmXesc : seen (exec .frmXesc (tiny .escaped [0xFD])) = some (.normal, [0xFD, 0xDB], []) ∧
    seen (exec .frmXesc (tiny .escaped [0x01, 0x02, 0x03])) = some (.normal, [], [.err .bufferOverflow]) := by decide
-- FV13
theorem test_frmXbad : seen (exec (.frmXbad 0xDB) (tiny .escaped [0xFE])) =
    some (.normal, [], [.err (.unknownEscapedByte 0xDB)]) := by decide
-- FV6, FV12
theorem test_byte : seen (exec (.byte 0xDC) (roomy .normal [0xFE])) = some (.normal, [0xFE, 0xDC], []) ∧
    seen (exec (.byte 0xC0) (roomy .escaped [0xFE])) = some (.normal, [], [.err (.unknownEscapedByte 0xC0)]) := by
  decide
-- DV4 with W6
theorem test_byte_ends_a_frame : drawn (exec (.byte 0xC0) (tiny .normal [0xFE, 0x14, 0x00, 0x28, 0x00])) =
    some (⟨1, 2, 3⟩, [.drawRectangle ⟨20, 40⟩ ⟨1, 1⟩ ⟨1, 2, 3⟩],
      [.cmd (.drawRectangle ⟨20, 40⟩ ⟨1, 1⟩ ⟨1, 2, 3⟩)]) := by decide
-- DV1
theorem test_cycleStart :
    nextState (exec .cycleStart { tiny .escaped [0xFE] with
      colour := ⟨9, 9, 9⟩, cmds := [.systemInfo 1 2 3 4 5, .systemInfo 6 7 8 9 10] }) =
    some { tiny .escaped [0xFE] with colour := ⟨9, 9, 9⟩ } := by decide
-- DV2
theorem test_reset :
    nextState (exec .reset { tiny .escaped [0xFE, 0x01] with colour := ⟨9, 9, 9⟩, cmds := [.systemInfo 1 2 3 4 5] }) =
    some (tiny .normal []) := by decide

-- PV1
theorem test_cmdEmpty : drawn (exec .cmdEmpty (tiny .normal [])) =
    some (⟨1, 2, 3⟩, [], [.err .rectangleInvalidFormat]) := by decide
-- PV3
theorem test_cmdWave : drawn (exec (.cmdWave ⟨0x10, 0x20, 0x30⟩ [1, 2, 3]) (tiny .normal [])) =
    some (⟨1, 2, 3⟩, [.drawOscilloscopeWaveform ⟨0x10, 0x20, 0x30⟩ [1, 2, 3]],
      [.cmd (.drawOscilloscopeWaveform ⟨0x10, 0x20, 0x30⟩ [1, 2, 3])]) := by decide
-- PV2
theorem test_cmdWaveBadlen : drawn (exec (.cmdWaveBadlen []) (tiny .normal [])) =
    some (⟨1, 2, 3⟩, [], [.err .waveformInvalidFormat]) := by decide
-- PV4
theorem test_cmdChar : drawn (exec (.cmdChar 0x41 ⟨10, 20⟩ ⟨255, 255, 255⟩ ⟨0, 0, 0⟩) (tiny .normal [])) =
    some (⟨1, 2, 3⟩, [.drawCharacter 0x41 ⟨10, 20⟩ ⟨255, 255, 255⟩ ⟨0, 0, 0⟩],
      [.cmd (.drawCharacter 0x41 ⟨10, 20⟩ ⟨255, 255, 255⟩ ⟨0, 0, 0⟩)]) := by decide
-- PV7
theorem test_cmdCharBadlen : drawn (exec (.cmdCharBadlen []) (tiny .normal [])) =
    some (⟨1, 2, 3⟩, [], [.err .characterInvalidFormat]) := by decide
-- PV8
theorem test_cmdRect5 : drawn (exec (.cmdRect5 ⟨20, 40⟩) (tiny .normal [])) =
    some (⟨1, 2, 3⟩, [.drawRectangle ⟨20, 40⟩ ⟨1, 1⟩ ⟨1, 2, 3⟩],
      [.cmd (.drawRectangle ⟨20, 40⟩ ⟨1, 1⟩ ⟨1, 2, 3⟩)]) := by decide
-- PV9
theorem test_cmdRect8 : drawn (exec (.cmdRect8 ⟨10, 11⟩ ⟨255, 0, 0⟩) (tiny .normal [])) =
    some (⟨255, 0, 0⟩, [.drawRectangle ⟨10, 11⟩ ⟨1, 1⟩ ⟨255, 0, 0⟩],
      [.cmd (.drawRectangle ⟨10, 11⟩ ⟨1, 1⟩ ⟨255, 0, 0⟩)]) := by decide
-- PV11
theorem test_cmdRect9 : drawn (exec (.cmdRect9 ⟨1, 2⟩ ⟨3, 4⟩) (tiny .normal [])) =
    some (⟨1, 2, 3⟩, [.drawRectangle ⟨1, 2⟩ ⟨3, 4⟩ ⟨1, 2, 3⟩],
      [.cmd (.drawRectangle ⟨1, 2⟩ ⟨3, 4⟩ ⟨1, 2, 3⟩)]) := by decide
-- PV12
theorem test_cmdRect12 : drawn (exec (.cmdRect12 ⟨256, 512⟩ ⟨16, 32⟩ ⟨10, 11, 12⟩) (tiny .normal [])) =
    some (⟨10, 11, 12⟩, [.drawRectangle ⟨256, 512⟩ ⟨16, 32⟩ ⟨10, 11, 12⟩],
      [.cmd (.drawRectangle ⟨256, 512⟩ ⟨16, 32⟩ ⟨10, 11, 12⟩)]) := by decide
-- PV13
theorem test_cmdRectBadlen : drawn (exec (.cmdRectBadlen [0x00]) (tiny .normal [])) =
    some (⟨1, 2, 3⟩, [], [.err .rectangleInvalidFormat]) := by decide
-- PV18
theorem test_cmdSysinfo : drawn (exec (.cmdSysinfo 3 1 2 5 1 [0x99]) (tiny .normal [])) =
    some (⟨1, 2, 3⟩, [.systemInfo 3 1 2 5 1], [.cmd (.systemInfo 3 1 2 5 1)]) := by decide
-- PV20
theorem test_cmdSysinfoBadlen : drawn (exec (.cmdSysinfoBadlen []) (tiny .normal [])) =
    some (⟨1, 2, 3⟩, [], [.err .systemInfoInvalidFormat]) := by decide
-- PV22
theorem test_cmdKeypress : drawn (exec (.cmdKeypress [0x01, 0x00]) (tiny .normal [])) = some (⟨1, 2, 3⟩, [], []) := by
  decide
-- PV26
theorem test_cmdUnrecognized : drawn (exec (.cmdUnrecognized 0xFA [0, 0, 0, 0]) (tiny .normal [])) =
    some (⟨1, 2, 3⟩, [], [.err (.unrecognizedCommand 0xFA)]) := by decide

-- rules R89 and R112: a step takes the next input; with none the block is idle
theorem test_step : nextState (step { tiny .normal [] with inputs := [.byte 0xDB, .byte 0xDC] }) =
      some { tiny .escaped [] with inputs := [.byte 0xDC] } ∧
    nextState (step State.reset) = some State.reset := by decide
-- log entries 6 and 7
theorem test_withFetchWord : decodeTableWord 16 0x1DC = some .frmXend ∧
    decodeTableWord 8 0xFE = some (.cmdRect12 ⟨0, 0⟩ ⟨0, 0⟩ ⟨0, 0, 0⟩) ∧ decodeTableWord 0 0 = none ∧
    seen (step (State.reset.withFetchWord 16 0x1DC)) = some (.normal, [0xC0], []) ∧
    drawn (step (State.reset.withFetchWord 8 0xFF)) =
      some (⟨0, 0, 0⟩, [.systemInfo 0 0 0 0 0], [.cmd (.systemInfo 0 0 0 0 0)]) := by decide
theorem test_registerImages : (⟨1, 2, 3⟩ : Colour).image = 0x010203 ∧
    (ErrorEvent.unrecognizedCommand 0xFA).payload = some 0xFA ∧ ErrorEvent.bufferOverflow.fromFramer = true ∧
    (Command.systemInfo 0 0 0 0 0).tag = 0xFF := by decide

/-! ### Witnesses: for every statement with hypotheses, states and operands that meet them together -/

/-- A state of a session with one command in it, on which a step has something to change. -/
def busy (f : FState) (buf : List Byte) (next : List Input) : State :=
  { tiny f buf with cmds := [.systemInfo 1 2 3 4 5], trace := [.cmd (.systemInfo 1 2 3 4 5)], inputs := next }

theorem witness_FramerKeysDecodeByTheTable :
    (0x0C0 : BitVec 9) &&& 0x1FF = 0x0C0 ∧ (0x0DB : BitVec 9) &&& 0x1FF = 0x0DB ∧
    ((0x0FF : BitVec 9) &&& 0x100 = 0x000 ∧ (0x0FF : BitVec 9) ≠ 0x0C0 ∧ (0x0FF : BitVec 9) ≠ 0x0DB) ∧
    (0x1DC : BitVec 9) &&& 0x1FF = 0x1DC ∧ (0x1DD : BitVec 9) &&& 0x1FF = 0x1DD ∧
    ((0x100 : BitVec 9) &&& 0x100 = 0x100 ∧ (0x100 : BitVec 9) ≠ 0x1DC ∧ (0x100 : BitVec 9) ≠ 0x1DD) := by decide
theorem witness_PacketFormByTagAndLength :
    4 = 1 + (List.replicate 3 (0 : Byte)).length ∧ 484 = 1 + (bytes55 483).length ∧
    485 = 1 + (bytes55 484).length ∧ 3 = 1 + (List.replicate 2 (0 : Byte)).length ∧
    12 = 1 + (List.replicate 11 (0 : Byte)).length ∧ 5 = 1 + (List.replicate 4 (0 : Byte)).length ∧
    8 = 1 + (List.replicate 7 (0 : Byte)).length ∧ 9 = 1 + (List.replicate 8 (0 : Byte)).length ∧
    6 = 1 + (List.replicate 5 (0 : Byte)).length ∧ 6 ∉ [5, 8, 9, 12] ∧ 11 ≠ 12 ∧
    (0xFA : Byte) ∉ [0xFB, 0xFC, 0xFD, 0xFE, 0xFF] := by simp [bytes55_length]
theorem witness_PacketFieldLayouts : (bytes55 480).length ≤ 480 := by simp [bytes55_length]
theorem witness_SixteenBitFieldsAreLittleEndian : 3 + 1 < ([0xFE, 0x34, 0x12, 0x78, 0x56] : List Byte).length := by
  decide
theorem witness_DecodeOfEncode : (Instr.cmdWave ⟨1, 2, 3⟩ (bytes55 480)).wf = true ∧
    (Instr.frmData 0xDC).wf = true ∧ (Instr.cmdRectBadlen []).wf = true :=
  ⟨by simp [Instr.wf, waveLengthOk, bytes55_length], by decide, by decide⟩
theorem witness_EscapedPayloads : (0xDC : Byte) ≠ 0xC0 ∧ (0xDC : Byte) ≠ 0xDB := by decide
theorem witness_FrameEndHandsOverTheBuffer :
    ((tiny .normal []).fstate = .normal ∧ (tiny .normal []).buf = []) ∧
    ((tiny .normal [1, 2, 3]).fstate = .normal ∧ (tiny .normal [1, 2, 3]).buf ≠ []) := by decide
theorem witness_EscapeByteEntersEscaped : (tiny .normal [1, 2, 3]).fstate = .normal := by decide
theorem witness_DataByteIsAppended : (0xDC : Byte) ≠ 0xC0 ∧ (0xDC : Byte) ≠ 0xDB ∧
    (tiny .normal [1, 2]).fstate = .normal ∧ (tiny .normal [1, 2]).buf.length ≠ (tiny .normal [1, 2]).params.cap ∧
    (tiny .normal [1, 2, 3]).fstate = .normal ∧
    (tiny .normal [1, 2, 3]).buf.length = (tiny .normal [1, 2, 3]).params.cap := by decide
theorem witness_EscapedEndIsAppended :
    (tiny .escaped [1, 2]).fstate = .escaped ∧ (tiny .escaped [1, 2]).buf.length ≠ (tiny .escaped [1, 2]).params.cap ∧
    (tiny .escaped [1, 2, 3]).fstate = .escaped ∧
    (tiny .escaped [1, 2, 3]).buf.length = (tiny .escaped [1, 2, 3]).params.cap := by decide
theorem witness_EscapedEscapeIsAppended :
    (tiny .escaped []).fstate = .escaped ∧ (tiny .escaped []).buf.length ≠ (tiny .escaped []).params.cap ∧
    (tiny .escaped [1, 2, 3]).fstate = .escaped ∧
    (tiny .escaped [1, 2, 3]).buf.length = (tiny .escaped [1, 2, 3]).params.cap := by decide
theorem witness_UnknownEscapeIsDiscarded :
    (tiny .escaped [1]).fstate = .escaped ∧ (0xDB : Byte) ≠ 0xDC ∧ (0xDB : Byte) ≠ 0xDD := by decide
theorem witness_ByteRunsTheRowOfItsKey :
    (tiny .normal []).fstate = .normal ∧ (tiny .escaped []).fstate = .escaped := by decide
theorem witness_ByteStepCaseByCase :
    ((tiny .normal []).fstate = .normal ∧ (tiny .normal []).buf = []) ∧
    ((tiny .normal [1]).fstate = .normal ∧ (tiny .normal [1]).buf ≠ []) ∧
    ((0x41 : Byte) ≠ 0xC0 ∧ (0x41 : Byte) ≠ 0xDB ∧ (0x41 : Byte) ≠ 0xDC ∧ (0x41 : Byte) ≠ 0xDD) ∧
    (tiny .normal [1, 2]).buf.length ≠ (tiny .normal [1, 2]).params.cap ∧
    (tiny .normal [1, 2, 3]).buf.length = (tiny .normal [1, 2, 3]).params.cap ∧
    ((tiny .escaped [1, 2]).fstate = .escaped ∧
      (tiny .escaped [1, 2]).buf.length ≠ (tiny .escaped [1, 2]).params.cap) ∧
    ((tiny .escaped [1, 2, 3]).fstate = .escaped ∧
      (tiny .escaped [1, 2, 3]).buf.length = (tiny .escaped [1, 2, 3]).params.cap) := by decide
theorem witness_FramerIsAFunctionOfItsKey :
    ∃ t t', framerKey (tiny .normal [1]).fstate 0x41 = framerKey (busy .normal [1] []).fstate 0x41 ∧
      (tiny .normal [1]).buf = (busy .normal [1] []).buf ∧
      (tiny .normal [1]).params.cap = (busy .normal [1] []).params.cap ∧
      exec (.byte 0x41) (tiny .normal [1]) = .next t ∧ exec (.byte 0x41) (busy .normal [1] []) = .next t' ∧
      t ≠ t' := ⟨_, _, by decide, by decide, by decide, rfl, rfl, by decide⟩
theorem witness_RectangleWithContextColour :
    (([0xFE, 1, 0, 2, 0] : List Byte).head? = some 0xFE ∧ ([0xFE, 1, 0, 2, 0] : List Byte).length = 5) ∧
    (([0xFE, 1, 0, 2, 0, 3, 0, 4, 0] : List Byte).head? = some 0xFE ∧
      ([0xFE, 1, 0, 2, 0, 3, 0, 4, 0] : List Byte).length = 9) := by decide
theorem witness_RectangleWithInlineColour :
    (([0xFE, 1, 0, 2, 0, 7, 8, 9] : List Byte).head? = some 0xFE ∧
      ([0xFE, 1, 0, 2, 0, 7, 8, 9] : List Byte).length = 8) ∧
    (([0xFE, 1, 0, 2, 0, 3, 0, 4, 0, 7, 8, 9] : List Byte).head? = some 0xFE ∧
      ([0xFE, 1, 0, 2, 0, 3, 0, 4, 0, 7, 8, 9] : List Byte).length = 12) := by decide
theorem witness_WaveformCommand :
    (([0xFC, 1, 2, 3] : List Byte).head? = some 0xFC ∧ 4 ≤ ([0xFC, 1, 2, 3] : List Byte).length ∧
      ([0xFC, 1, 2, 3] : List Byte).length ≤ 484) ∧
    4 ≤ (0xFC :: bytes55 483).length ∧ (0xFC :: bytes55 483).length ≤ 484 := by
  simp [bytes55_length]
theorem witness_CharacterCommand : (0xFD :: List.replicate 11 (0 : Byte)).length = 12 ∧
    (0xFD :: List.replicate 11 (0 : Byte)).head? = some 0xFD := by decide
theorem witness_SystemInfoCommand : 6 ≤ ([0xFF, 1, 2, 3, 4, 5] : List Byte).length ∧
    ([0xFF, 1, 2, 3, 4, 5] : List Byte).head? = some 0xFF := by decide
theorem witness_WrongLengthsAreReported :
    (([0xFC, 1, 2] : List Byte).head? = some 0xFC ∧ ([0xFC, 1, 2] : List Byte).length < 4) ∧
    (([0xFD] : List Byte).head? = some 0xFD ∧ ([0xFD] : List Byte).length ≠ 12) ∧
    (([0xFE] : List Byte).head? = some 0xFE ∧ ([0xFE] : List Byte).length ∉ [5, 8, 9, 12]) ∧
    (([0xFF, 1, 2, 3, 4] : List Byte).head? = some 0xFF ∧ ([0xFF, 1, 2, 3, 4] : List Byte).length < 6) := by decide
theorem witness_WrongLengthsAreReported_long : (0xFC :: bytes55 484).head? = some 0xFC ∧
    484 < (0xFC :: bytes55 484).length := by simp [bytes55_length]
theorem witness_UnknownTagIsReported : (0xFA : Byte) ∉ [0xFB, 0xFC, 0xFD, 0xFE, 0xFF] ∧
    (0x00 : Byte) ∉ [0xFB, 0xFC, 0xFD, 0xFE, 0xFF] := by decide
theorem witness_ColourWriteDiscipline :
    (∃ t, exec (.byte 0xC0) (tiny .normal [0xFE, 1, 0, 2, 0, 7, 8, 9]) = .next t ∧
      t.colour ≠ (tiny .normal []).colour) ∧
    (∃ t, exec .reset { tiny .normal [] with colour := ⟨9, 9, 9⟩ } = .next t ∧ t.colour ≠ ⟨9, 9, 9⟩) ∧
    (∃ t, exec (.cmdRect8 ⟨1, 2⟩ ⟨7, 8, 9⟩) (tiny .normal []) = .next t ∧ t.colour ≠ (tiny .normal []).colour) ∧
    (∃ t, exec (.cmdRect12 ⟨1, 2⟩ ⟨3, 4⟩ ⟨7, 8, 9⟩) (tiny .normal []) = .next t ∧
      t.colour ≠ (tiny .normal []).colour) :=
  ⟨⟨_, rfl, by decide⟩, ⟨_, rfl, by decide⟩, ⟨_, rfl, by decide⟩, ⟨_, rfl, by decide⟩⟩
theorem witness_CommandTagIsThePacketsTag :
    ∃ t c, exec (decode (.packet [0xFE, 1, 0, 2, 0])) (tiny .normal []) = .next t ∧
      t.trace = (tiny .normal []).trace ++ [.cmd c] := ⟨_, _, rfl, rfl⟩
theorem witness_ParametersAreFixed :
    (∃ t, exec .reset (tiny .escaped [1]) = .next t) ∧ (∃ t, step (busy .normal [] [.reset]) = .next t) :=
  ⟨⟨_, rfl⟩, ⟨_, rfl⟩⟩
theorem witness_StepRunsTheNextInput : (busy .normal [] [.byte 0x41]).inputs = .byte 0x41 :: [] ∧
    (busy .normal [] []).inputs = [] := by decide
theorem witness_StepKeepsTheInvariant :
    ∃ t, (busy .normal [0xFE, 1, 0] [.byte 0xC0]).Inv ∧ step (busy .normal [0xFE, 1, 0] [.byte 0xC0]) = .next t :=
  ⟨_, ⟨by decide, by decide, by decide, by decide⟩, rfl⟩
theorem witness_EscapedExactlyAfterAnEscape :
    (∃ t, step (busy .normal [] [.byte 0xDB]) = .next t ∧ (busy .normal [] [.byte 0xDB]).inputs = .byte 0xDB :: []) ∧
    (∃ t, step (busy .escaped [] [.cycleStart]) = .next t ∧
      (busy .escaped [] [.cycleStart]).inputs = .cycleStart :: []) ∧
    (∃ t, step (busy .escaped [] [.reset]) = .next t ∧ (busy .escaped [] [.reset]).inputs = .reset :: []) :=
  ⟨⟨_, rfl, rfl⟩, ⟨_, rfl, rfl⟩, ⟨_, rfl, rfl⟩⟩
theorem witness_AtMostOneEventPerStep :
    (∃ t, step (busy .normal [0x41] [.byte 0xC0]) = .next t ∧ t.trace ≠ (busy .normal [0x41] []).trace) ∧
    (∃ t, step (busy .normal [] [.cycleStart]) = .next t ∧
      (busy .normal [] [.cycleStart]).inputs.head? = some .cycleStart) ∧
    (∃ t, step (busy .normal [] [.reset]) = .next t ∧ (busy .normal [] [.reset]).inputs.head? = some .reset) :=
  ⟨⟨_, rfl, by decide⟩, ⟨_, rfl, rfl⟩, ⟨_, rfl, rfl⟩⟩
theorem witness_ErrorsRecoverAndArePrecise :
    (∃ t, step (busy .escaped [1] [.byte 0x41]) = .next t ∧
      t.trace = (busy .escaped [1] []).trace ++ [.err (.unknownEscapedByte 0x41)]) ∧
    (∃ t, step (busy .normal [1, 2, 3] [.byte 0x41]) = .next t ∧
      t.trace = (busy .normal [1, 2, 3] []).trace ++ [.err .bufferOverflow]) ∧
    (∃ t, step (busy .normal [0xFC] [.byte 0xC0]) = .next t ∧
      t.trace = (busy .normal [0xFC] []).trace ++ [.err .waveformInvalidFormat] ∧
      ErrorEvent.waveformInvalidFormat.code ∉ [1, 2]) :=
  ⟨⟨_, rfl, rfl⟩, ⟨_, rfl, rfl⟩, ⟨_, rfl, rfl, by decide⟩⟩
theorem witness_CommandsOnlyAtAFrameEnd :
    ∃ t c, step (busy .normal [0xFE, 1, 0, 2, 0] [.byte 0xC0]) = .next t ∧
      t.trace = (busy .normal [] []).trace ++ [.cmd c] := ⟨_, _, rfl, rfl⟩
theorem witness_BufferIsAppendedOrCleared :
    (∃ t, exec (.byte 0x41) (tiny .normal [1, 2]) = .next t ∧ t.buf ≠ [] ∧ 1 < (tiny .normal [1, 2]).len) ∧
    (∃ t, exec (.byte 0x41) (tiny .normal [1, 2, 3]) = .next t ∧ t.buf = []) :=
  ⟨⟨_, rfl, by decide, by decide⟩, ⟨_, rfl, rfl⟩⟩
theorem witness_FramedPayloadIsParsedAsSent : (tiny .normal []).fstate = .normal ∧ (tiny .normal []).buf = [] ∧
    ([0xC0, 0xDB, 0x41] : List Byte) ≠ [] ∧
    ([0xC0, 0xDB, 0x41] : List Byte).length ≤ (tiny .normal []).params.cap := by decide
theorem witness_FramingHealsAtAFrameEnd : ([0xC0, 0xDB, 0x41] : List Byte) ≠ [] ∧
    ([0xC0, 0xDB, 0x41] : List Byte).length ≤ (tiny .escaped [1, 2, 3]).params.cap := by decide
theorem witness_ResyncFromNormal :
    (tiny .normal [0xFE, 0x01]).fstate = .normal ∧ (0xC0 : Byte) ≠ 0xDC ∧ (0xC0 : Byte) ≠ 0xDD := by decide
theorem witness_CapacityBound : (tiny .normal [1]).fstate = .normal ∧
    (∀ v ∈ ([0x43, 0x41, 0x42] : List Byte), v ≠ 0xC0 ∧ v ≠ 0xDB) ∧
    (tiny .normal [1]).buf.length + ([0x41, 0x42] : List Byte).length = (tiny .normal [1]).params.cap := by decide
theorem witness_MalformedFrameIsIsolated :
    ∃ t, (tiny .normal []).fstate = .normal ∧ (tiny .normal []).buf = [] ∧ ([0xFD, 0x41] : List Byte) ≠ [] ∧
      ([0xFD, 0x41] : List Byte).length ≤ (tiny .normal []).params.cap ∧
      exec (decode (.packet [0xFD, 0x41])) (tiny .normal []) = .next t ∧
      t.trace = (tiny .normal []).trace ++ [.err .characterInvalidFormat] :=
  ⟨_, rfl, rfl, by decide, by decide, rfl, rfl⟩
theorem witness_ShortRectangleTakesTheLastColour :
    (roomy .normal []).fstate = .normal ∧ (roomy .normal []).buf = [] ∧
    (∀ x, x = [0xFE, 1, 0, 2, 0, 7, 8, 9] ∨ x = [0xFE, 1, 0, 2, 0, 3, 0, 4, 0] ∨
        some x ∈ ([some [0xFD], none, some [0xFE, 0]] : List (Option (List Byte))) →
      x ≠ [] ∧ x.length ≤ (roomy .normal []).params.cap) ∧
    decode (.packet [0xFE, 1, 0, 2, 0, 7, 8, 9]) = .cmdRect8 ⟨1, 2⟩ ⟨7, 8, 9⟩ ∧
    (∀ x, some x ∈ ([some [0xFD], none, some [0xFE, 0]] : List (Option (List Byte))) →
      x.head? = some 0xFE → x.length ≠ 8 ∧ x.length ≠ 12) ∧
    decode (.packet [0xFE, 1, 0, 2, 0, 3, 0, 4, 0]) = .cmdRect9 ⟨1, 2⟩ ⟨3, 4⟩ := by
  refine ⟨rfl, rfl, ?_, by decide, ?_, by decide⟩
  · rintro x (rfl | rfl | h)
    · decide
    · decide
    · obtain rfl | rfl : x = [0xFD] ∨ x = [0xFE, 0] := by simpa using h
      all_goals decide
  · intro x h
    obtain rfl | rfl : x = [0xFD] ∨ x = [0xFE, 0] := by simpa using h
    all_goals decide
theorem witness_ShortRectangleTakesTheLastColour_forms :
    decode (.packet [0xFE, 1, 0, 2, 0, 3, 0, 4, 0, 7, 8, 9]) = .cmdRect12 ⟨1, 2⟩ ⟨3, 4⟩ ⟨7, 8, 9⟩ ∧
    decode (.packet [0xFE, 1, 0, 2, 0]) = .cmdRect5 ⟨1, 2⟩ := by decide
theorem witness_StepAddsTheCommandsOfItsEvents :
    (∃ t, step (busy .normal [0xFE, 1, 0, 2, 0] [.byte 0xC0]) = .next t ∧
      t.cmds ≠ (busy .normal [] []).cmds ∧
      (busy .normal [0xFE, 1, 0, 2, 0] [.byte 0xC0]).inputs.head? ≠ some .reset ∧
      (busy .normal [0xFE, 1, 0, 2, 0] [.byte 0xC0]).inputs.head? ≠ some .cycleStart) ∧
    (∃ t, step (busy .normal [] [.reset]) = .next t ∧ (busy .normal [] [.reset]).inputs.head? = some .reset) ∧
    (∃ t, step (busy .escaped [] [.cycleStart]) = .next t ∧
      (busy .escaped [] [.cycleStart]).inputs.head? = some .cycleStart) :=
  ⟨⟨_, rfl, by decide, by decide, by decide⟩, ⟨_, rfl, rfl⟩, ⟨_, rfl, rfl⟩⟩
theorem witness_StepsKeepDecodingAlike :
    (∃ t v, (busy .normal [0xFE, 1, 0, 2, 0] [.byte 0xC0]).DecodesAlike
        { busy .normal [0xFE, 1, 0, 2, 0] [.byte 0xC0] with cmds := [] } ∧
      step (busy .normal [0xFE, 1, 0, 2, 0] [.byte 0xC0]) = .next t ∧
      step { busy .normal [0xFE, 1, 0, 2, 0] [.byte 0xC0] with cmds := [] } = .next v ∧ t.cmds ≠ v.cmds) ∧
    (∃ t, (busy .escaped [1] [.cycleStart]).DecodesAlike (busy .escaped [1] []) ∧
      step (busy .escaped [1] [.cycleStart]) = .next t ∧
      (busy .escaped [1] [.cycleStart]).inputs.head? = some .cycleStart) :=
  ⟨⟨_, _, ⟨rfl, rfl, rfl, rfl, rfl⟩, rfl, rfl, by decide⟩, ⟨_, ⟨rfl, rfl, rfl, rfl, rfl⟩, rfl, rfl⟩⟩
theorem witness_ValidFormsFitTheBuffer :
    (roomy .normal []).fstate = .normal ∧ (roomy .normal []).buf = [] ∧ 484 ≤ (roomy .normal []).params.cap ∧
    (Instr.cmdWave ⟨7, 8, 9⟩ (bytes55 480)).wf = true ∧
    encode (.cmdWave ⟨7, 8, 9⟩ (bytes55 480)) =
      .packet (0xFC :: 7 :: 8 :: 9 :: bytes55 480) :=
  ⟨by decide, by decide, by decide, by simp [Instr.wf, waveLengthOk, bytes55_length], by simp [encode, colourBytes, tagWaveform]⟩
theorem witness_RegisterImagesAndErrorCodes : (tiny .normal [1, 2, 3]).len ≤ (tiny .normal [1, 2, 3]).params.cap := by
  decide
theorem test_lenWidth : lenWidth 1024 = 11 := by decide

end Sys2Proof.Tests
end

/-! Family 00_scope: what one instruction can do, said once (`exec_cases`), and from it that `CAP` and `RESET_COLOUR`
are fixed (R7, R8); the state after reset (R113). -/

namespace Sys2Proof.Machine

/-! ### What an instruction can do -/

/-- Everything a row of the framer's decode table can answer from state `s` (R63 to R68). -/
inductive FramerRow (s : State) : State × FeedResult → Prop
  /-- A frame end with an empty buffer (R63). -/
  | idle (h : s.buf = []) : FramerRow s (s, .nothing)
  /-- A frame end with a non-empty buffer (R63). -/
  | packet (h : s.buf ≠ []) : FramerRow s (s.setBuf [], .packet s.buf)
  /-- The start of an escape (R64). -/
  | escape : FramerRow s (s.setFstate .escaped, .nothing)
  /-- An append with room in the buffer (R62), after the row has set `FSTATE` (R65 to R67). -/
  | room (f : FState) (v : Byte) (h : s.buf.length ≠ s.params.cap) :
      FramerRow s ((s.setFstate f).setBuf (s.buf ++ [v]), .nothing)
  /-- A framer error (R62, R68, R106). -/
  | error (e : ErrorEvent) : FramerRow s (framerError e s)

theorem FramerRow.of_frmEnd (s : State) : FramerRow s (frmEnd s) := by
  by_cases h : s.buf = []
  · rw [frmEnd_empty h]; exact .idle h
  · rw [frmEnd_packet h]; exact .packet h

theorem FramerRow.of_append_setFstate (f : FState) (v : Byte) (s : State) : FramerRow s (append v (s.setFstate f)) := by
  obtain ⟨h, e⟩ | ⟨-, e⟩ := append_cases v (s.setFstate f) <;> rw [e]
  · exact .room f v h
  · exact .error .bufferOverflow

/-- An append that leaves `FSTATE` alone writes the value it holds. -/
theorem FramerRow.of_append (v : Byte) (s : State) : FramerRow s (append v s) :=
  of_append_setFstate s.fstate v s

theorem FramerRow.of_feed (b : Byte) (s : State) : FramerRow s (feed b s) := by
  obtain ⟨-, -, e⟩ | ⟨-, -, e⟩ | ⟨-, -, -, e⟩ | ⟨-, -, e⟩ | ⟨-, -, e⟩ | ⟨-, -, -, e⟩ := feed_cases b s <;> rw [e]
  · exact .of_frmEnd s
  · exact .escape
  · exact .of_append b s
  · exact .of_append_setFstate .normal frameEnd s
  · exact .of_append_setFstate .normal frameEsc s
  · exact .error (.unknownEscapedByte b)

/-- Everything an instruction can do: a reset (R92), the start of a cycle (R91), a framer row whose yield is settled
(R90), or a packet form whose outcome is applied (R90). -/
theorem exec_cases (i : Instr) (s : State) :
    (i = .reset ∧
      exec i s = .next ((((s.setFstate .normal).setBuf []).setColour s.params.resetColour).setCmds [])) ∨
    (i = .cycleStart ∧ exec i s = .next (s.setCmds [])) ∨
    (∃ r, FramerRow s r ∧ exec i s = .next (settle r)) ∨
    (∃ r, exec i s = .next (s.deliver r)) := by
  cases i with
  | reset => exact .inl ⟨rfl, rfl⟩
  | cycleStart => exact .inr (.inl ⟨rfl, rfl⟩)
  | byte b => exact .inr (.inr (.inl ⟨_, .of_feed b s, rfl⟩))
  | frmEnd => exact .inr (.inr (.inl ⟨_, .of_frmEnd s, rfl⟩))
  | frmEsc => exact .inr (.inr (.inl ⟨_, .escape, rfl⟩))
  | frmData b => exact .inr (.inr (.inl ⟨_, .of_append b s, rfl⟩))
  | frmXend => exact .inr (.inr (.inl ⟨_, .of_append_setFstate .normal frameEnd s, rfl⟩))
  | frmXesc => exact .inr (.inr (.inl ⟨_, .of_append_setFstate .normal frameEsc s, rfl⟩))
  | frmXbad b => exact .inr (.inr (.inl ⟨_, .error (.unknownEscapedByte b), rfl⟩))
  | _ => exact .inr (.inr (.inr ⟨_, rfl⟩))

/-- Everything a step can do: stay idle, or take the next pending input and run it (R89, R112). -/
theorem step_cases (s : State) :
    (s.inputs = [] ∧ step s = .next s) ∨
    (∃ e es, s.inputs = e :: es ∧ step s = exec (decode (.event e)) (s.setInputs es)) := by
  cases h : s.inputs with
  | nil => exact .inl ⟨rfl, by simp [step, State.fetch, h]⟩
  | cons e es => exact .inr ⟨e, es, rfl, by simp [step, State.fetch, h]⟩

/-! ### The parameters are fixed -/

theorem FramerRow.params_eq {s : State} {r : State × FeedResult} (h : FramerRow s r) : r.1.params = s.params := by
  cases h <;> rfl

@[simp] theorem settle_params (r : State × FeedResult) : (settle r).params = r.1.params := by
  obtain ⟨s, y⟩ := r
  cases y with
  | nothing => rfl
  | packet p => rw [settle_packet, State.deliver_params]
  | error e => rw [settle_error, State.raise_params]

theorem exec_keeps_params {i : Instr} {s t : State} (h : exec i s = .next t) : t.params = s.params := by
  obtain ⟨-, e⟩ | ⟨-, e⟩ | ⟨r, hr, e⟩ | ⟨r, e⟩ := exec_cases i s <;> rw [next_inj (e.symm.trans h)]
  · rfl
  · rfl
  · rw [settle_params, hr.params_eq]
  · rw [State.deliver_params]

theorem step_keeps_params {s t : State} (h : step s = .next t) : t.params = s.params := by
  obtain ⟨-, e⟩ | ⟨_, _, -, e⟩ := step_cases s
  · rw [next_inj (e.symm.trans h)]
  · rw [exec_keeps_params (e.symm.trans h), State.setInputs_params]

/-- Settles O34: no instruction writes the parameters, and a step is idle or runs one instruction. -/
theorem parametersAreFixed : Obligations.ParametersAreFixed :=
  ⟨fun _ _ _ => exec_keeps_params, fun _ _ => step_keeps_params⟩

/-! ### The state after reset -/

/-- Settles O33: the fields of `State.construct` at this hardware's parameters. -/
theorem resetState : Obligations.ResetState :=
  ⟨State.construct_fstate .reference, State.construct_buf .reference, rfl, State.construct_colour .reference,
    State.construct_cmds .reference, rfl, rfl, State.construct_inputs .reference, State.construct_trace .reference⟩

end Sys2Proof.Machine

/-! Family 10_state: what a step with each input does, what a parse can answer, and the events a byte adds to the trace;
from these the invariant (R17, R23, R69), `FSTATE` (R16), the output list (R25), and the register images (R98). -/

namespace Sys2Proof.Machine

/-! ### A step, by its input -/

theorem step_of_inputs {s : State} {e : Input} {es : List Input} (h : s.inputs = e :: es) :
    step s = exec (decode (.event e)) (s.setInputs es) := by simp [step, State.fetch, h]

theorem step_reset {s : State} {es : List Input} (h : s.inputs = .reset :: es) :
    step s = .next (((((s.setInputs es).setFstate .normal).setBuf []).setColour s.params.resetColour).setCmds []) :=
  step_of_inputs h

theorem step_cycleStart {s : State} {es : List Input} (h : s.inputs = .cycleStart :: es) :
    step s = .next ((s.setInputs es).setCmds []) := step_of_inputs h

theorem step_byte {s : State} {b : Byte} {es : List Input} (h : s.inputs = .byte b :: es) :
    step s = .next (settle (feed b (s.setInputs es))) := step_of_inputs h

/-- Everything a step can answer, by the input it takes (R89 to R92, R112). -/
theorem step_next_cases {s t : State} (h : step s = .next t) :
    (s.inputs = [] ∧ t = s) ∨
    (∃ es, s.inputs = .reset :: es ∧
      t = ((((s.setInputs es).setFstate .normal).setBuf []).setColour s.params.resetColour).setCmds []) ∨
    (∃ es, s.inputs = .cycleStart :: es ∧ t = (s.setInputs es).setCmds []) ∨
    (∃ b es, s.inputs = .byte b :: es ∧ t = settle (feed b (s.setInputs es))) := by
  obtain ⟨hin, e⟩ | ⟨i, es, hin, -⟩ := step_cases s
  · exact .inl ⟨hin, next_inj (e.symm.trans h)⟩
  · cases i with
    | reset => exact .inr (.inl ⟨es, hin, next_inj ((step_reset hin).symm.trans h)⟩)
    | cycleStart => exact .inr (.inr (.inl ⟨es, hin, next_inj ((step_cycleStart hin).symm.trans h)⟩))
    | byte b => exact .inr (.inr (.inr ⟨b, es, hin, next_inj ((step_byte hin).symm.trans h)⟩))

/-! ### What a parse can answer -/

theorem head?_eq_byteAt_zero {p : List Byte} (h : p.length ≠ 0) : p.head? = some (byteAt p 0) := by
  cases p with
  | nil => exact absurd rfl h
  | cons a p => rw [byteAt_zero, List.head?_cons]

theorem samples_length_le {p : List Byte} (h : waveLengthOk p.length = true) : (bytesFrom p 4).length ≤ 480 := by
  simp only [waveLengthOk, Bool.and_eq_true, decide_eq_true_eq] at h
  simp only [bytesFrom, List.length_drop]
  omega

/-- Everything a parse of packet `p` can answer (R71). -/
inductive ParseAnswer (p : List Byte) (C : Colour) : ParseOutcome × Colour → Prop
  /-- An error keeps the colour context (R71, R87). -/
  | error (e : ErrorEvent) : ParseAnswer p C (.err e, C)
  /-- So does a packet that is ignored (R85). -/
  | ignored : ParseAnswer p C (.ignored, C)
  /-- A command has the packet's tag (R23) and is within its bound (R45). -/
  | command (c : Command) (C' : Colour) (htag : p.head? = some c.tag) (hok : c.ok = true) : ParseAnswer p C (.cmd c, C')

/-- The branches of the dispatch procedure (R72): in each the tag that it has tested is that of its command. -/
theorem ParseAnswer.of_parse (p : List Byte) (C : Colour) : ParseAnswer p C (parse p C) := by
  unfold parse
  split
  case isTrue => exact .error _
  case isFalse hne =>
  have htag {t : Byte} (h : byteAt p 0 = t) : p.head? = some t := h ▸ head?_eq_byteAt_zero hne
  split
  case isTrue hw =>
    split
    case isTrue hn => exact .command _ _ (htag hw) (decide_eq_true (samples_length_le hn))
    case isFalse => exact .error _
  case isFalse =>
  split
  case isTrue hc =>
    split
    case isTrue => exact .command _ _ (htag hc) rfl
    case isFalse => exact .error _
  case isFalse =>
  split
  case isTrue hr =>
    split_ifs
    iterate 4 exact .command _ _ (htag hr) rfl
    exact .error _
  case isFalse =>
  split
  case isTrue hi =>
    split
    case isTrue => exact .command _ _ (htag hi) rfl
    case isFalse => exact .error _
  case isFalse =>
  split
  case isTrue => exact .ignored
  case isFalse => exact .error _

theorem ParseAnswer.tag_of_command {p : List Byte} {C : Colour} {r : ParseOutcome × Colour} {c : Command}
    (h : ParseAnswer p C r) (hc : r.1 = .cmd c) : p.head? = some c.tag := by
  cases h with
  | error | ignored => cases hc
  | command _ _ htag => cases hc; exact htag

/-- The dispatch procedure (R72) and the decode map (R55) have the same branches, and in each the form's meaning applies
the outcome of the dispatch. -/
theorem exec_decode_packet (p : List Byte) (s : State) :
    exec (decode (.packet p)) s = .next (s.deliver (parse p s.colour)) := by
  simp only [decode, decodePacket, parse]
  split_ifs <;> rfl

theorem ParseOutcome.events_eq_cmd {o : ParseOutcome} {c : Command} (h : events o = [.cmd c]) : o = .cmd c := by
  cases o with
  | cmd _ => simpa [events] using h
  | ignored | err _ => simp [events] at h

/-- Settles O30: the event a packet's form adds is its parse's outcome, and a parse's command has the packet's tag. -/
theorem commandTagIsThePacketsTag : Obligations.CommandTagIsThePacketsTag := by
  intro p s t c hexec htrace
  rw [next_inj ((exec_decode_packet p s).symm.trans hexec), State.deliver_trace] at htrace
  have hcmd := ParseOutcome.events_eq_cmd (List.append_cancel_left htrace)
  exact (ParseAnswer.of_parse p s.colour).tag_of_command hcmd

/-! ### The events a byte adds -/

@[simp] theorem commandsOf_append (l m : List OutEvent) : commandsOf (l ++ m) = commandsOf l ++ commandsOf m :=
  List.filterMap_append

/-- `t` is `s` with the events `ev` output: at most one (R25, R69), at the end of the trace, its command at the end of
`CMDS` (R90) and within its bound (R23). -/
structure Outputs (s : State) (ev : List OutEvent) (t : State) : Prop where
  trace_eq : t.trace = s.trace ++ ev
  cmds_eq : t.cmds = s.cmds ++ commandsOf ev
  length_le : ev.length ≤ 1
  commands_ok : ∀ c ∈ commandsOf ev, c.ok = true

theorem Outputs.nothing (s : State) : Outputs s [] s where
  trace_eq := (List.append_nil _).symm
  cmds_eq := (List.append_nil _).symm
  length_le := Nat.zero_le 1
  commands_ok := fun _ h => nomatch h

theorem Outputs.error (s : State) (e : ErrorEvent) : Outputs s [.err e] (s.raise e) where
  trace_eq := State.raise_trace s e
  cmds_eq := (List.append_nil _).symm
  length_le := Nat.le_refl 1
  commands_ok := fun _ h => nomatch h

theorem Outputs.command (s : State) (c : Command) (C : Colour) (hok : c.ok = true) :
    Outputs s [.cmd c] (s.deliver (.cmd c, C)) where
  trace_eq := State.deliver_trace s _
  cmds_eq := State.deliver_cmds s _
  length_le := Nat.le_refl 1
  commands_ok := List.forall_mem_singleton.mpr hok

/-- What is output does not depend on the fields beside `CMDS` and the trace. -/
theorem Outputs.of_frame {s u t : State} {ev : List OutEvent} (h : Outputs u ev t) (ht : u.trace = s.trace)
    (hc : u.cmds = s.cmds) : Outputs s ev t :=
  ⟨ht ▸ h.trace_eq, hc ▸ h.cmds_eq, h.length_le, h.commands_ok⟩

theorem ParseAnswer.outputs {p : List Byte} {C : Colour} {r : ParseOutcome × Colour} (h : ParseAnswer p C r)
    (s : State) : ∃ ev, Outputs s ev (s.deliver r) := by
  cases h with
  | error e => exact ⟨_, (Outputs.error (s.setColour C) e).of_frame rfl rfl⟩
  | ignored => exact ⟨_, (Outputs.nothing (s.setColour C)).of_frame rfl rfl⟩
  | command c C' _ hok => exact ⟨_, .command s c C' hok⟩

/-- Settling what a framer row yields outputs at most one event (R69, R90). -/
theorem FramerRow.outputs {s : State} {r : State × FeedResult} (h : FramerRow s r) : ∃ ev, Outputs s ev (settle r) := by
  cases h with
  | idle => exact ⟨_, .nothing s⟩
  | packet =>
    obtain ⟨ev, hev⟩ := (ParseAnswer.of_parse s.buf s.colour).outputs (s.setBuf [])
    exact ⟨ev, hev.of_frame rfl rfl⟩
  | escape => exact ⟨_, (Outputs.nothing (s.setFstate .escaped)).of_frame rfl rfl⟩
  | room f v => exact ⟨_, (Outputs.nothing ((s.setFstate f).setBuf (s.buf ++ [v]))).of_frame rfl rfl⟩
  | error e => exact ⟨_, (Outputs.error ((s.setBuf []).setFstate .normal) e).of_frame rfl rfl⟩

/-- Settles O41: only a byte outputs, and what its framer row yields is settled by at most one event. -/
theorem atMostOneEventPerStep : Obligations.AtMostOneEventPerStep := by
  intro s t h
  obtain ⟨hin, rfl⟩ | ⟨es, hin, rfl⟩ | ⟨es, hin, rfl⟩ | ⟨b, es, hin, rfl⟩ := step_next_cases h
  · exact ⟨⟨[], by simp⟩, fun _ => rfl⟩
  · exact ⟨⟨[], by simp⟩, fun _ => rfl⟩
  · exact ⟨⟨[], by simp⟩, fun _ => rfl⟩
  · obtain ⟨ev, hev⟩ := (FramerRow.of_feed b (s.setInputs es)).outputs
    exact ⟨⟨ev, hev.length_le, hev.trace_eq⟩, by simp [hin]⟩

/-! ### The invariant -/

@[simp] theorem settle_buf (r : State × FeedResult) : (settle r).buf = r.1.buf := by
  obtain ⟨s, y⟩ := r
  cases y with
  | nothing => rfl
  | packet p => rw [settle_packet, State.deliver_buf]
  | error e => rw [settle_error, State.raise_buf]

/-- No framer row takes the buffer past its capacity (R17): an append with room adds one byte, and every other row keeps
the buffer or clears it. -/
theorem FramerRow.len_le {s : State} {r : State × FeedResult} (h : FramerRow s r) (hs : s.len ≤ s.params.cap) :
    r.1.len ≤ s.params.cap := by
  cases h with
  | idle => exact hs
  | packet => exact Nat.zero_le _
  | escape => exact hs
  | room f v hne =>
    simp only [State.len_eq, State.setBuf_buf, List.length_append, List.length_singleton] at hs ⊢
    omega
  | error => exact Nat.zero_le _

theorem State.Inv.construct {p : Params} (h : p.ok) : (State.construct p).Inv :=
  ⟨h, Nat.zero_le _, List.suffix_refl _, fun _ hc => nomatch hc⟩

theorem State.Inv.setInputs {s : State} (h : s.Inv) (es : List Input) : (s.setInputs es).Inv :=
  ⟨h.cap_pos, h.buf_le_cap, h.cmds_in_trace, h.commands_ok⟩

/-- Clearing the command list keeps the invariant, whatever becomes of `FSTATE` and `COLOUR`. -/
theorem State.Inv.of_cmds_nil {s t : State} (h : s.Inv) (hp : t.params = s.params) (hb : t.len ≤ s.params.cap)
    (ht : t.trace = s.trace) (hc : t.cmds = []) : t.Inv where
  cap_pos := hp ▸ h.cap_pos
  buf_le_cap := hp ▸ hb
  cmds_in_trace := hc ▸ List.nil_suffix
  commands_ok := ht ▸ h.commands_ok

/-- Adding the same commands at the end of `CMDS` and of the trace keeps the invariant. -/
theorem State.Inv.of_outputs {s t : State} {ev : List OutEvent} (h : s.Inv) (ho : Outputs s ev t)
    (hp : t.params = s.params) (hb : t.len ≤ s.params.cap) : t.Inv where
  cap_pos := hp ▸ h.cap_pos
  buf_le_cap := hp ▸ hb
  cmds_in_trace := by
    obtain ⟨earlier, e⟩ := h.cmds_in_trace
    exact ⟨earlier, by rw [ho.trace_eq, ho.cmds_eq, commandsOf_append, ← e, List.append_assoc]⟩
  commands_ok := by
    rw [ho.trace_eq, commandsOf_append]
    exact List.forall_mem_append.mpr ⟨h.commands_ok, ho.commands_ok⟩

theorem State.Inv.settle_row {s : State} {r : State × FeedResult} (h : s.Inv) (hr : FramerRow s r) :
    (settle r).Inv := by
  obtain ⟨ev, hev⟩ := hr.outputs
  refine h.of_outputs hev ?_ ?_
  · rw [settle_params, hr.params_eq]
  · rw [State.len_eq, settle_buf]; exact hr.len_le h.buf_le_cap

/-- Settles O39: a Reset and a CycleStart clear `CMDS`, and a byte's framer row keeps the bound on the buffer and outputs
what the packet's length allows. -/
theorem stepKeepsTheInvariant : Obligations.StepKeepsTheInvariant := by
  intro s t hs h
  obtain ⟨-, rfl⟩ | ⟨es, -, rfl⟩ | ⟨es, -, rfl⟩ | ⟨b, es, -, rfl⟩ := step_next_cases h
  · exact hs
  · exact hs.of_cmds_nil rfl (Nat.zero_le _) rfl rfl
  · exact hs.of_cmds_nil rfl hs.buf_le_cap rfl rfl
  · exact (hs.setInputs es).settle_row (.of_feed b _)

/-- Settles O38: a constructed state has an empty buffer, no command and no event, and 1024 is a legal capacity. -/
theorem resetMeetsTheInvariant : Obligations.ResetMeetsTheInvariant :=
  State.Inv.construct (p := .reference) (by decide)

/-! ### The framer state after a step -/

@[simp] theorem settle_fstate (r : State × FeedResult) : (settle r).fstate = r.1.fstate := by
  obtain ⟨s, y⟩ := r
  cases y with
  | nothing => rfl
  | packet p => rw [settle_packet, State.deliver_fstate]
  | error e => rw [settle_error, State.raise_fstate]

theorem append_fstate_of_normal (v : Byte) {s : State} (h : s.fstate = .normal) :
    (append v s).1.fstate = .normal := by
  obtain ⟨-, e⟩ | ⟨-, e⟩ := append_cases v s <;> rw [e]
  · exact h
  · rfl

theorem frmEnd_fstate (s : State) : (frmEnd s).1.fstate = s.fstate := by
  by_cases h : s.buf = []
  · rw [frmEnd_empty h]
  · rw [frmEnd_packet h, State.setBuf_fstate]

/-- Of the six rows of R42 only the escape byte's enters Escaped, and it is a row of Normal (R16, R64). -/
theorem feed_escaped_iff (b : Byte) (s : State) :
    (feed b s).1.fstate = .escaped ↔ s.fstate = .normal ∧ b = frameEsc := by
  have hne : frameEnd ≠ frameEsc := by decide
  obtain ⟨hf, hb, e⟩ | ⟨hf, hb, e⟩ | ⟨hf, -, hb, e⟩ | ⟨hf, -, e⟩ | ⟨hf, -, e⟩ | ⟨hf, -, -, e⟩ := feed_cases b s <;>
    rw [e, hf]
  · simp [frmEnd_fstate, hf, hb, hne]
  · simp [hb]
  · simp [append_fstate_of_normal b hf, hb]
  · simp [append_fstate_of_normal frameEnd (State.setFstate_fstate s .normal)]
  · simp [append_fstate_of_normal frameEsc (State.setFstate_fstate s .normal)]
  · simp [framerError]

/-- Settles O40: settling keeps the framer's `FSTATE`; a Reset sets it, and a CycleStart leaves it. -/
theorem escapedExactlyAfterAnEscape : Obligations.EscapedExactlyAfterAnEscape := by
  intro s t es h
  refine ⟨fun b hin => ?_, fun hin => ?_, fun hin => ?_⟩
  · rw [next_inj ((step_byte hin).symm.trans h), settle_fstate]
    exact feed_escaped_iff b (s.setInputs es)
  · rw [next_inj ((step_cycleStart hin).symm.trans h), State.setCmds_fstate, State.setInputs_fstate]
  · rw [next_inj ((step_reset hin).symm.trans h)]; rfl

end Sys2Proof.Machine

namespace Sys2Proof

/-! ### Register images and error codes -/

theorem FState.ofBit_bit (f : FState) : FState.ofBit f.bit = f := by cases f <;> rfl

theorem Colour.image_r (c : Colour) : c.image.extractLsb' 16 8 = c.r :=
  (BitVec.extractLsb'_append_eq_of_le (by decide)).trans BitVec.extractLsb'_append_eq_left

theorem Colour.image_g (c : Colour) : c.image.extractLsb' 8 8 = c.g :=
  (BitVec.extractLsb'_append_eq_of_le (by decide)).trans BitVec.extractLsb'_append_eq_right

theorem Colour.image_b (c : Colour) : c.image.extractLsb' 0 8 = c.b := BitVec.extractLsb'_append_eq_right

/-- A fill within `CAP` is below `CAP + 1`, for which `LEN`'s register has the bits (R18). -/
theorem lt_two_pow_lenWidth {n cap : Nat} (h : n ≤ cap) : n < 2 ^ lenWidth cap :=
  calc n < cap + 1 := Nat.lt_succ_of_le h
    _ ≤ 2 ^ lenWidth cap := Nat.le_pow_clog Nat.one_lt_two _

theorem ErrorEvent.code_ne_zero (e : ErrorEvent) : e.code ≠ 0 := by
  cases e <;> exact Nat.succ_ne_zero _

/-- Settles O56: the images read back, the width holds `CAP`, and the codes are the numbers of R98. -/
theorem registerImagesAndErrorCodes : Obligations.RegisterImagesAndErrorCodes :=
  ⟨rfl, rfl, FState.ofBit_bit, fun c => ⟨c.image_r, c.image_g, c.image_b⟩, fun _ => lt_two_pow_lenWidth,
    rfl, fun _ => rfl, rfl, rfl, rfl, rfl, fun _ => rfl, ErrorEvent.code_ne_zero⟩

end Sys2Proof

/-! Family 20_memory: the bytes of a packet, read as fields and laid out again. The fields of every form tile its packet
(R28), so that a code is the encoding of what it decodes to; a 16-bit field is little-endian (R29); and a byte writes
the buffer at offset `LEN` only, or clears it (R27). -/

namespace Sys2Proof

/-! ### Reading a field and laying it out again -/

theorem byteAt_eq_getElem {p : List Byte} {i : Nat} (h : i < p.length) : byteAt p i = p[i] :=
  List.getD_eq_getElem p 0 h

theorem le16_low (p : List Byte) (i : Nat) : (le16 p i).extractLsb' 0 8 = byteAt p i := low_of_le16 _ _

theorem le16_high (p : List Byte) (i : Nat) : (le16 p i).extractLsb' 8 8 = byteAt p (i + 1) := high_of_le16 _ _

theorem le16_eq_append (p : List Byte) (i : Nat) : le16 p i = byteAt p (i + 1) ++ byteAt p i := by
  rw [← half_readback (byteAt p (i + 1) ++ byteAt p i), BitVec.extractLsb'_append_eq_right,
    BitVec.extractLsb'_append_eq_left]
  rfl

theorem posAt_eq_append (p : List Byte) (i : Nat) :
    posAt p i = ⟨byteAt p (i + 1) ++ byteAt p i, byteAt p (i + 3) ++ byteAt p (i + 2)⟩ := by
  rw [posAt, le16_eq_append, le16_eq_append]

theorem sizeAt_eq_append (p : List Byte) (i : Nat) :
    sizeAt p i = ⟨byteAt p (i + 1) ++ byteAt p i, byteAt p (i + 3) ++ byteAt p (i + 2)⟩ := by
  rw [sizeAt, le16_eq_append, le16_eq_append]

theorem halfBytes_le16 (p : List Byte) (i : Nat) : halfBytes (le16 p i) = [byteAt p i, byteAt p (i + 1)] := by
  rw [halfBytes, le16_low, le16_high]

/-! ### A packet taken apart: what is left of it after a field -/

theorem bytesFrom_length (p : List Byte) (i : Nat) : (bytesFrom p i).length = p.length - i := List.length_drop

theorem bytesFrom_eq_nil {p : List Byte} {i : Nat} (h : p.length ≤ i) : bytesFrom p i = [] :=
  List.drop_eq_nil_of_le h

theorem bytesFrom_eq_byte {p : List Byte} {i : Nat} (h : i < p.length) :
    bytesFrom p i = byteAt p i :: bytesFrom p (i + 1) := by
  rw [byteAt_eq_getElem h]
  exact List.drop_eq_getElem_cons h

theorem bytesFrom_eq_half {p : List Byte} {i : Nat} (h : i + 1 < p.length) :
    bytesFrom p i = halfBytes (le16 p i) ++ bytesFrom p (i + 2) := by
  rw [halfBytes_le16, bytesFrom_eq_byte (Nat.lt_of_succ_lt h), bytesFrom_eq_byte h]
  rfl

theorem bytesFrom_eq_pos {p : List Byte} {i : Nat} (h : i + 3 < p.length) :
    bytesFrom p i = posBytes (posAt p i) ++ bytesFrom p (i + 4) := by
  rw [bytesFrom_eq_half (show i + 1 < p.length by omega), bytesFrom_eq_half (show i + 2 + 1 < p.length from h),
    ← List.append_assoc]
  rfl

theorem bytesFrom_eq_size {p : List Byte} {i : Nat} (h : i + 3 < p.length) :
    bytesFrom p i = sizeBytes (sizeAt p i) ++ bytesFrom p (i + 4) := bytesFrom_eq_pos h

theorem bytesFrom_eq_colour {p : List Byte} {i : Nat} (h : i + 2 < p.length) :
    bytesFrom p i = colourBytes (rgb p i) ++ bytesFrom p (i + 3) := by
  rw [bytesFrom_eq_byte (show i < p.length by omega), bytesFrom_eq_byte (show i + 1 < p.length by omega),
    bytesFrom_eq_byte h]
  rfl

theorem packet_eq_tag_cons {p : List Byte} {t : Byte} (h0 : p.length ≠ 0) (ht : byteAt p 0 = t) :
    p = t :: bytesFrom p 1 := by
  rw [← ht]
  exact bytesFrom_eq_byte (Nat.pos_of_ne_zero h0)

/-! ### The forms with 16-bit fields, by tag and length -/

section
variable {p : List Byte}

theorem decode_cmdChar (ht : p.head? = some tagCharacter) (hn : p.length = 12) :
    decode (.packet p) = .cmdChar (byteAt p 1) (posAt p 2) (rgb p 6) (rgb p 9) := by
  obtain ⟨rest, rfl⟩ := List.head?_eq_some_iff.mp ht
  rw [decode, decodePacket_cons, ← List.length_cons, hn]
  rfl

/-- The rows of a rectangle in the decode map (R55). -/
theorem decode_rectangle (ht : p.head? = some tagRectangle) :
    decode (.packet p) =
      if p.length = 5 then .cmdRect5 (posAt p 1)
      else if p.length = 8 then .cmdRect8 (posAt p 1) (rgb p 5)
      else if p.length = 9 then .cmdRect9 (posAt p 1) (sizeAt p 5)
      else if p.length = 12 then .cmdRect12 (posAt p 1) (sizeAt p 5) (rgb p 9)
      else .cmdRectBadlen (bytesFrom p 1) := by
  obtain ⟨rest, rfl⟩ := List.head?_eq_some_iff.mp ht
  exact decodePacket_cons tagRectangle rest

theorem decode_cmdRect5 (ht : p.head? = some tagRectangle) (hn : p.length = 5) :
    decode (.packet p) = .cmdRect5 (posAt p 1) := by rw [decode_rectangle ht, hn]; rfl

theorem decode_cmdRect8 (ht : p.head? = some tagRectangle) (hn : p.length = 8) :
    decode (.packet p) = .cmdRect8 (posAt p 1) (rgb p 5) := by rw [decode_rectangle ht, hn]; rfl

theorem decode_cmdRect9 (ht : p.head? = some tagRectangle) (hn : p.length = 9) :
    decode (.packet p) = .cmdRect9 (posAt p 1) (sizeAt p 5) := by rw [decode_rectangle ht, hn]; rfl

theorem decode_cmdRect12 (ht : p.head? = some tagRectangle) (hn : p.length = 12) :
    decode (.packet p) = .cmdRect12 (posAt p 1) (sizeAt p 5) (rgb p 9) := by rw [decode_rectangle ht, hn]; rfl

end

theorem le16_bytes {p : List Byte} {i : Nat} (h : i + 1 < p.length) :
    (le16 p i).extractLsb' 0 8 = p[i] ∧ (le16 p i).extractLsb' 8 8 = p[i + 1] :=
  ⟨(le16_low p i).trans (byteAt_eq_getElem _), (le16_high p i).trans (byteAt_eq_getElem h)⟩

/-- Settles O5: `le16` is its two bytes, the one at the lower offset below, and each form reads its fields with it. -/
theorem sixteenBitFieldsAreLittleEndian : Obligations.SixteenBitFieldsAreLittleEndian := by
  refine ⟨fun _ _ => le16_bytes, fun a b c d e f g h j k l =>
    ⟨?rect5, ⟨⟨e, f, g⟩, ?rect8⟩, ?rect9, ⟨⟨j, k, l⟩, ?rect12⟩, ⟨f, g, h⟩, ⟨j, k, l⟩, ?char⟩⟩
  case rect5 => rw [decode_cmdRect5 rfl rfl, posAt_eq_append]; rfl
  case rect8 => rw [decode_cmdRect8 rfl rfl, posAt_eq_append]; rfl
  case rect9 => rw [decode_cmdRect9 rfl rfl, posAt_eq_append, sizeAt_eq_append]; rfl
  case rect12 => rw [decode_cmdRect12 rfl rfl, posAt_eq_append, sizeAt_eq_append]; rfl
  case char => rw [decode_cmdChar rfl rfl, posAt_eq_append]; rfl

/-! ### A packet's form encodes the packet -/

/-- `i` is well formed and its code is `c`. -/
structure Instr.Encodes (i : Instr) (c : Code) : Prop where
  wf : i.wf = true
  encode_eq : encode i = c

theorem add_bytesFrom_length {p : List Byte} {i : Nat} (h : i ≤ p.length) : i + (bytesFrom p i).length = p.length := by
  rw [bytesFrom_length, Nat.add_sub_cancel' h]

section
variable {p : List Byte}

theorem encodes_cmdWave (ht : byteAt p 0 = tagWaveform) (hn : waveLengthOk p.length = true) :
    (Instr.cmdWave (rgb p 1) (bytesFrom p 4)).Encodes (.packet p) := by
  have h4 : 4 ≤ p.length := by
    simp only [waveLengthOk, Bool.and_eq_true, decide_eq_true_eq] at hn
    exact hn.1
  constructor
  · rw [Instr.wf, add_bytesFrom_length h4, hn]
  · rw [encode, ← bytesFrom_eq_colour (by omega), ← packet_eq_tag_cons (by omega) ht]

theorem encodes_cmdChar (ht : byteAt p 0 = tagCharacter) (hn : p.length = 12) :
    (Instr.cmdChar (byteAt p 1) (posAt p 2) (rgb p 6) (rgb p 9)).Encodes (.packet p) := by
  have hp : bytesFrom p 1 = byteAt p 1 :: (posBytes (posAt p 2) ++ colourBytes (rgb p 6) ++ colourBytes (rgb p 9)) := by
    rw [bytesFrom_eq_byte (by omega), bytesFrom_eq_pos (by omega), bytesFrom_eq_colour (by omega),
      bytesFrom_eq_colour (by omega), bytesFrom_eq_nil (by omega), List.append_nil, List.append_assoc]
  exact ⟨rfl, by rw [encode, ← hp, ← packet_eq_tag_cons (by omega) ht]⟩

theorem encodes_cmdRect5 (ht : byteAt p 0 = tagRectangle) (hn : p.length = 5) :
    (Instr.cmdRect5 (posAt p 1)).Encodes (.packet p) := by
  have hp : bytesFrom p 1 = posBytes (posAt p 1) := by
    rw [bytesFrom_eq_pos (by omega), bytesFrom_eq_nil (by omega), List.append_nil]
  exact ⟨rfl, by rw [encode, ← hp, ← packet_eq_tag_cons (by omega) ht]⟩

theorem encodes_cmdRect8 (ht : byteAt p 0 = tagRectangle) (hn : p.length = 8) :
    (Instr.cmdRect8 (posAt p 1) (rgb p 5)).Encodes (.packet p) := by
  have hp : bytesFrom p 1 = posBytes (posAt p 1) ++ colourBytes (rgb p 5) := by
    rw [bytesFrom_eq_pos (by omega), bytesFrom_eq_colour (by omega), bytesFrom_eq_nil (by omega), List.append_nil]
  exact ⟨rfl, by rw [encode, ← hp, ← packet_eq_tag_cons (by omega) ht]⟩

theorem encodes_cmdRect9 (ht : byteAt p 0 = tagRectangle) (hn : p.length = 9) :
    (Instr.cmdRect9 (posAt p 1) (sizeAt p 5)).Encodes (.packet p) := by
  have hp : bytesFrom p 1 = posBytes (posAt p 1) ++ sizeBytes (sizeAt p 5) := by
    rw [bytesFrom_eq_pos (by omega), bytesFrom_eq_size (by omega), bytesFrom_eq_nil (by omega), List.append_nil]
  exact ⟨rfl, by rw [encode, ← hp, ← packet_eq_tag_cons (by omega) ht]⟩

theorem encodes_cmdRect12 (ht : byteAt p 0 = tagRectangle) (hn : p.length = 12) :
    (Instr.cmdRect12 (posAt p 1) (sizeAt p 5) (rgb p 9)).Encodes (.packet p) := by
  have hp : bytesFrom p 1 = posBytes (posAt p 1) ++ sizeBytes (sizeAt p 5) ++ colourBytes (rgb p 9) := by
    rw [bytesFrom_eq_pos (by omega), bytesFrom_eq_size (by omega), bytesFrom_eq_colour (by omega),
      bytesFrom_eq_nil (by omega), List.append_nil, List.append_assoc]
  exact ⟨rfl, by rw [encode, ← hp, ← packet_eq_tag_cons (by omega) ht]⟩

theorem encodes_cmdSysinfo (ht : byteAt p 0 = tagSysinfo) (hn : sysinfoLengthOk p.length = true) :
    (Instr.cmdSysinfo (byteAt p 1) (byteAt p 2) (byteAt p 3) (byteAt p 4) (byteAt p 5) (bytesFrom p 6)).Encodes
      (.packet p) := by
  have h6 : 6 ≤ p.length := of_decide_eq_true hn
  constructor
  · rw [Instr.wf, add_bytesFrom_length h6, hn]
  · rw [encode, ← bytesFrom_eq_byte (by omega), ← bytesFrom_eq_byte (by omega), ← bytesFrom_eq_byte (by omega),
      ← bytesFrom_eq_byte (by omega), ← bytesFrom_eq_byte (by omega), ← packet_eq_tag_cons (by omega) ht]

/-- A form that reads no field keeps every byte after the tag (log entry 19); the length it keeps is the packet's. -/
theorem encodes_of_rest {i : Instr} {t : Byte} (h0 : p.length ≠ 0) (ht : byteAt p 0 = t)
    (hi : encode i = .packet (t :: bytesFrom p 1)) (hwf : 1 + (bytesFrom p 1).length = p.length → i.wf = true) :
    i.Encodes (.packet p) :=
  ⟨hwf (add_bytesFrom_length (Nat.one_le_iff_ne_zero.mpr h0)), by rw [hi, ← packet_eq_tag_cons h0 ht]⟩

end

/-- The decode map (R55), row by row: each row's fields tile the packet, and its operands meet the row's condition. -/
theorem encodes_decodePacket (p : List Byte) : (decodePacket p).Encodes (.packet p) := by
  unfold decodePacket
  split_ifs with h0 hw hwn hc hcn hr h5 h8 h9 h12 hs hsn hk
  · rw [List.eq_nil_of_length_eq_zero h0]; exact ⟨rfl, rfl⟩
  · exact encodes_cmdWave hw hwn
  · exact encodes_of_rest h0 hw rfl fun hl => by simp [Instr.wf, hl, hwn]
  · exact encodes_cmdChar hc (beq_iff_eq.mp hcn)
  · exact encodes_of_rest h0 hc rfl fun hl => by simp [Instr.wf, hl, hcn]
  · exact encodes_cmdRect5 hr h5
  · exact encodes_cmdRect8 hr h8
  · exact encodes_cmdRect9 hr h9
  · exact encodes_cmdRect12 hr h12
  · exact encodes_of_rest h0 hr rfl fun hl => by simp [Instr.wf, hl, rectLengthOk, h5, h8, h9, h12]
  · exact encodes_cmdSysinfo hs hsn
  · exact encodes_of_rest h0 hs rfl fun hl => by simp [Instr.wf, hl, hsn]
  · exact encodes_of_rest h0 hk rfl fun _ => rfl
  · exact encodes_of_rest h0 rfl rfl fun _ => by simp [Instr.wf, knownTag, hw, hc, hr, hs, hk]

/-- A key is its framer state and its byte (R41). -/
theorem key_eq_framerKey {k : BitVec 9} {f : FState} {b : Byte} (hf : keyState k = f) (hb : keyByte k = b) :
    k = framerKey f b := by rw [← hf, ← hb, framerKey_keyState]

/-- The framer's decode table (R42), row by row. -/
theorem encodes_decodeKey (k : BitVec 9) : (decodeKey k).Encodes (.key k) := by
  unfold decodeKey
  cases hf : keyState k with
  | normal =>
    dsimp only
    split_ifs with hEnd hEsc
    · rw [key_eq_framerKey hf hEnd]; exact ⟨rfl, rfl⟩
    · rw [key_eq_framerKey hf hEsc]; exact ⟨rfl, rfl⟩
    · exact ⟨by simp [Instr.wf, hEnd, hEsc], congrArg Code.key (key_eq_framerKey hf rfl).symm⟩
  | escaped =>
    dsimp only
    split_ifs with hXend hXesc
    · rw [key_eq_framerKey hf hXend]; exact ⟨rfl, rfl⟩
    · rw [key_eq_framerKey hf hXesc]; exact ⟨rfl, rfl⟩
    · exact ⟨by simp [Instr.wf, hXend, hXesc], congrArg Code.key (key_eq_framerKey hf rfl).symm⟩

theorem encodes_decodeEvent (e : Input) : (decodeEvent e).Encodes (.event e) := by
  cases e <;> exact ⟨rfl, rfl⟩

theorem encodes_decode (c : Code) : (decode c).Encodes c := by
  cases c with
  | event e => exact encodes_decodeEvent e
  | key k => exact encodes_decodeKey k
  | packet p => exact encodes_decodePacket p

/-- Settles O7: in each of the three formats every row of the decoder encodes the code it was chosen by. -/
theorem encodeOfDecode : Obligations.EncodeOfDecode :=
  fun c => ⟨(encodes_decode c).wf, (encodes_decode c).encode_eq⟩

end Sys2Proof

namespace Sys2Proof.Machine

/-! ### The buffer after a byte -/

theorem exec_byte (b : Byte) (s : State) : exec (.byte b) s = .next (settle (feed b s)) := rfl

/-- No framer row writes a byte below `LEN`: it clears the buffer, keeps it, or appends to it (R27). -/
theorem FramerRow.buf_cases {s : State} {r : State × FeedResult} (h : FramerRow s r) :
    r.1.buf = [] ∨ r.1.buf = s.buf ∨ ∃ v, r.1.buf = s.buf ++ [v] := by
  cases h with
  | idle => exact .inr (.inl rfl)
  | packet => exact .inl rfl
  | escape => exact .inr (.inl rfl)
  | room f v => exact .inr (.inr ⟨v, rfl⟩)
  | error => exact .inl rfl

/-- Settles O44: a byte's framer row appends to the buffer or clears it, and settling leaves the buffer alone. -/
theorem bufferIsAppendedOrCleared : Obligations.BufferIsAppendedOrCleared := by
  intro s t b h
  have ht : t.buf = (feed b s).1.buf := by rw [next_inj ((exec_byte b s).symm.trans h), settle_buf]
  simp only [State.bufAt_eq, State.len_eq, ht]
  obtain e | e | ⟨v, e⟩ := (FramerRow.of_feed b s).buf_cases <;> rw [e]
  · exact .inl rfl
  · exact .inr ⟨fun _ _ => rfl, .inl rfl⟩
  · exact .inr ⟨fun _ hi => List.getElem?_append_left hi, .inr List.length_append⟩

end Sys2Proof.Machine

/-! Family 30_encoding: the decoder against the spec's tables, from both sides: an encoding decodes to its instruction,
and a packet's tag and length or a key's state and byte choose the row (R42, R55). Then what a byte does is its row's
doing (R41, R61), and a table word placed for the next step is run as its row. -/

namespace Sys2Proof

/-! ### Decode of encode -/

/-- Settles O6: the model's round trip of each constructor. -/
theorem decodeOfEncode : Obligations.DecodeOfEncode := by
  intro i
  cases i with
  | reset => exact Laws.RoundTrip.reset
  | cycleStart => exact Laws.RoundTrip.cycleStart
  | byte b => exact Laws.RoundTrip.byte b
  | frmEnd => exact Laws.RoundTrip.frmEnd
  | frmEsc => exact Laws.RoundTrip.frmEsc
  | frmData b => exact Laws.RoundTrip.frmData b
  | frmXend => exact Laws.RoundTrip.frmXend
  | frmXesc => exact Laws.RoundTrip.frmXesc
  | frmXbad b => exact Laws.RoundTrip.frmXbad b
  | cmdEmpty => exact Laws.RoundTrip.cmdEmpty
  | cmdWave c samples => exact Laws.RoundTrip.cmdWave c samples
  | cmdWaveBadlen rest => exact Laws.RoundTrip.cmdWaveBadlen rest
  | cmdChar code pos fg bg => exact Laws.RoundTrip.cmdChar code pos fg bg
  | cmdCharBadlen rest => exact Laws.RoundTrip.cmdCharBadlen rest
  | cmdRect5 pos => exact Laws.RoundTrip.cmdRect5 pos
  | cmdRect8 pos c => exact Laws.RoundTrip.cmdRect8 pos c
  | cmdRect9 pos size => exact Laws.RoundTrip.cmdRect9 pos size
  | cmdRect12 pos size c => exact Laws.RoundTrip.cmdRect12 pos size c
  | cmdRectBadlen rest => exact Laws.RoundTrip.cmdRectBadlen rest
  | cmdSysinfo hw major minor patch font rest => exact Laws.RoundTrip.cmdSysinfo hw major minor patch font rest
  | cmdSysinfoBadlen rest => exact Laws.RoundTrip.cmdSysinfoBadlen rest
  | cmdKeypress rest => exact Laws.RoundTrip.cmdKeypress rest
  | cmdUnrecognized tag rest => exact Laws.RoundTrip.cmdUnrecognized tag rest

/-! ### The tests of the decode map -/

theorem waveLengthOk_iff {n : Nat} : waveLengthOk n = true ↔ 4 ≤ n ∧ n ≤ 484 := by simp [waveLengthOk]

theorem charLengthOk_iff {n : Nat} : charLengthOk n = true ↔ n = 12 := beq_iff_eq

theorem rectLengthOk_iff {n : Nat} : rectLengthOk n = true ↔ n ∈ [5, 8, 9, 12] := by simp [rectLengthOk, or_assoc]

theorem sysinfoLengthOk_iff {n : Nat} : sysinfoLengthOk n = true ↔ 6 ≤ n := decide_eq_true_iff

theorem knownTag_iff {t : Byte} : knownTag t = true ↔ t ∈ [0xFB, 0xFC, 0xFD, 0xFE, 0xFF] := by
  simp [knownTag, or_assoc, tagKeypress, tagWaveform, tagCharacter, tagRectangle, tagSysinfo]

/-- A test that decides `P` fails where `P` does; the BADLEN rows and the row of an unknown tag are such. -/
theorem not_test_of_not {b : Bool} {P : Prop} (hb : b = true ↔ P) (h : ¬P) : (!b) = true := by
  rw [Bool.not_eq_true', Bool.eq_false_iff]
  exact mt hb.mp h

section
variable {p : List Byte}

theorem decode_cmdWave (ht : p.head? = some tagWaveform) (hn : waveLengthOk p.length = true) :
    decode (.packet p) = .cmdWave (rgb p 1) (bytesFrom p 4) := by
  obtain ⟨rest, rfl⟩ := List.head?_eq_some_iff.mp ht
  rw [decode, decodePacket_cons, ← List.length_cons, hn]
  rfl

theorem decode_cmdSysinfo (ht : p.head? = some tagSysinfo) (hn : sysinfoLengthOk p.length = true) :
    decode (.packet p) =
      .cmdSysinfo (byteAt p 1) (byteAt p 2) (byteAt p 3) (byteAt p 4) (byteAt p 5) (bytesFrom p 6) := by
  obtain ⟨rest, rfl⟩ := List.head?_eq_some_iff.mp ht
  rw [decode, decodePacket_cons, ← List.length_cons, hn]
  rfl

end

/-- Settles O3: a form with fields is the row of its tag at an accepted length; a form without is its own encoding, and
is well formed at the other lengths. -/
theorem packetFormByTagAndLength : Obligations.PacketFormByTagAndLength := by
  refine ⟨rfl, fun tag rest n hn => ?_⟩
  have hlen : (tag :: rest).length = n := by rw [hn, List.length_cons, Nat.add_comm]
  refine ⟨?wave, ?waveBadlen, ?char, ?charBadlen, ?rect5, ?rect8, ?rect9, ?rect12, ?rectBadlen, ?sysinfo,
    ?sysinfoBadlen, ?keypress, ?unrecognized⟩
  case wave =>
    exact fun ht h4 h484 => ⟨_, _, decode_cmdWave (congrArg some ht) (waveLengthOk_iff.mpr (hlen ▸ ⟨h4, h484⟩))⟩
  case waveBadlen =>
    rintro rfl h
    exact Laws.RoundTrip.cmdWaveBadlen rest (not_test_of_not waveLengthOk_iff (by omega))
  case char => exact fun ht h => ⟨_, _, _, _, decode_cmdChar (congrArg some ht) (hlen.trans h)⟩
  case charBadlen =>
    rintro rfl h
    exact Laws.RoundTrip.cmdCharBadlen rest (not_test_of_not charLengthOk_iff (hn ▸ h))
  case rect5 => exact fun ht h => ⟨_, decode_cmdRect5 (congrArg some ht) (hlen.trans h)⟩
  case rect8 => exact fun ht h => ⟨_, _, decode_cmdRect8 (congrArg some ht) (hlen.trans h)⟩
  case rect9 => exact fun ht h => ⟨_, _, decode_cmdRect9 (congrArg some ht) (hlen.trans h)⟩
  case rect12 => exact fun ht h => ⟨_, _, _, decode_cmdRect12 (congrArg some ht) (hlen.trans h)⟩
  case rectBadlen =>
    rintro rfl h
    exact Laws.RoundTrip.cmdRectBadlen rest (not_test_of_not rectLengthOk_iff (hn ▸ h))
  case sysinfo =>
    exact fun ht h =>
      ⟨_, _, _, _, _, _, decode_cmdSysinfo (congrArg some ht) (sysinfoLengthOk_iff.mpr (hlen ▸ h))⟩
  case sysinfoBadlen =>
    rintro rfl h
    exact Laws.RoundTrip.cmdSysinfoBadlen rest (not_test_of_not sysinfoLengthOk_iff (by omega))
  case keypress =>
    rintro rfl
    exact Laws.RoundTrip.cmdKeypress rest rfl
  case unrecognized =>
    exact fun h => Laws.RoundTrip.cmdUnrecognized tag rest (not_test_of_not knownTag_iff h)

/-- Settles O4: the layouts without a 16-bit field are the encoder's; in the others each field is two bytes, low first. -/
theorem packetFieldLayouts : Obligations.PacketFieldLayouts := by
  intro a b c d e f g h j k l more
  refine ⟨?wave, ?char, ?rect5, ?rect8, ?rect9, ?rect12, ?sysinfo⟩
  case wave =>
    exact fun hmore => Laws.RoundTrip.cmdWave ⟨a, b, c⟩ more (waveLengthOk_iff.mpr ⟨by omega, by omega⟩)
  case char => rw [decode_cmdChar rfl rfl, posAt_eq_append]; rfl
  case rect5 => rw [decode_cmdRect5 rfl rfl, posAt_eq_append]; rfl
  case rect8 => rw [decode_cmdRect8 rfl rfl, posAt_eq_append]; rfl
  case rect9 => rw [decode_cmdRect9 rfl rfl, posAt_eq_append, sizeAt_eq_append]; rfl
  case rect12 => rw [decode_cmdRect12 rfl rfl, posAt_eq_append, sizeAt_eq_append]; rfl
  case sysinfo =>
    exact Laws.RoundTrip.cmdSysinfo a b c d e more (sysinfoLengthOk_iff.mpr (Nat.le_add_right 6 _))

/-- Settles O1: closed words, each evaluated. -/
theorem writtenOutWordsDecode : Obligations.WrittenOutWordsDecode := by
  unfold Obligations.WrittenOutWordsDecode
  decide

/-! ### Escaping -/

theorem escape_cons (v : Byte) (p : List Byte) : escape (v :: p) = escapeByte v ++ escape p := List.flatMap_cons

theorem escapeByte_of_ne {v : Byte} (hEnd : v ≠ frameEnd) (hEsc : v ≠ frameEsc) : escapeByte v = [v] := by
  rw [escapeByte, if_neg hEnd, if_neg hEsc]

theorem frameEnd_not_mem_escapeByte (v : Byte) : frameEnd ∉ escapeByte v := by
  by_cases hEnd : v = frameEnd
  · rw [hEnd]; decide
  by_cases hEsc : v = frameEsc
  · rw [hEsc]; decide
  rw [escapeByte_of_ne hEnd hEsc, List.mem_singleton]
  exact Ne.symm hEnd

/-- Escaping is byte by byte, so no frame end is left in an escaped payload (R60). -/
theorem frameEnd_not_mem_escape (p : List Byte) : frameEnd ∉ escape p := fun h =>
  have ⟨v, _, hv⟩ := List.mem_flatMap.mp h
  frameEnd_not_mem_escapeByte v hv

/-- Settles O8: the three cases of one byte's escape, none of which gives a frame end. -/
theorem escapedPayloads : Obligations.EscapedPayloads :=
  ⟨rfl, escape_cons frameEnd, escape_cons frameEsc,
    fun v p hEnd hEsc => by rw [escape_cons, escapeByte_of_ne hEnd hEsc, List.singleton_append],
    fun _ => rfl, frameEnd_not_mem_escape⟩

/-! ### The framer's key -/

theorem framerKey_setWidth (f : FState) (b : Byte) : (framerKey f b).setWidth 8 = b :=
  BitVec.setWidth_append_eq_right

theorem framerKey_getLsbD_eight (f : FState) (b : Byte) : (framerKey f b).getLsbD 8 = true ↔ f = .escaped := by
  rw [framerKey, BitVec.getLsbD_append, if_neg (by decide)]
  cases f <;> decide

/-- A key determines its framer state and its byte (R41). -/
theorem framerKey_inj {f f' : FState} {b b' : Byte} (h : framerKey f b = framerKey f' b') : f = f' ∧ b = b' :=
  ⟨by rw [← keyState_framerKey f b, h, keyState_framerKey], by rw [← keyByte_framerKey f b, h, keyByte_framerKey]⟩

theorem keyByte_eq_setWidth (k : BitVec 9) : keyByte k = k.setWidth 8 :=
  (BitVec.setWidth_eq_extractLsb' (by decide)).symm

/-- The mask `0x100` of the table's rows reads `FSTATE` (R41, R42). -/
theorem key_and_stateMask (k : BitVec 9) : k &&& 0x100 = if keyState k = .escaped then 0x100 else 0 := by
  have hbit : k.getLsbD 8 = true ↔ keyState k = .escaped := by
    rw [← framerKey_getLsbD_eight _ (keyByte k), framerKey_keyState]
  have hand := BitVec.and_twoPow k 8
  simp only [hbit] at hand
  exact hand

theorem keyState_of_mask_zero {k : BitVec 9} (h : k &&& 0x100 = 0x000) : keyState k = .normal := by
  rw [key_and_stateMask] at h
  cases hk : keyState k with
  | normal => rfl
  | escaped => rw [hk] at h; exact absurd h (by decide)

theorem keyState_of_mask_one {k : BitVec 9} (h : k &&& 0x100 = 0x100) : keyState k = .escaped := by
  rw [key_and_stateMask] at h
  cases hk : keyState k with
  | normal => rw [hk] at h; exact absurd h (by decide)
  | escaped => rfl

/-- The mask `0x1FF` of a row without an operand is the whole key (R42). -/
theorem key_and_fullMask (k : BitVec 9) : k &&& 0x1FF = k := BitVec.and_allOnes

/-- A key of Normal that is neither excluded one is a data byte's (R42). -/
theorem decode_frmData {k : BitVec 9} (hf : keyState k = .normal) (hEnd : k ≠ 0x0C0) (hEsc : k ≠ 0x0DB) :
    decode (.key k) = .frmData (keyByte k) := by
  have hEnd' : keyByte k ≠ frameEnd := mt (key_eq_framerKey hf) hEnd
  have hEsc' : keyByte k ≠ frameEsc := mt (key_eq_framerKey hf) hEsc
  simp [decode, decodeKey, hf, hEnd', hEsc']

/-- A key of Escaped that is neither excluded one is an unknown escape's (R42). -/
theorem decode_frmXbad {k : BitVec 9} (hf : keyState k = .escaped) (hEnd : k ≠ 0x1DC) (hEsc : k ≠ 0x1DD) :
    decode (.key k) = .frmXbad (keyByte k) := by
  have hEnd' : keyByte k ≠ frameEscEnd := mt (key_eq_framerKey hf) hEnd
  have hEsc' : keyByte k ≠ frameEscEsc := mt (key_eq_framerKey hf) hEsc
  simp [decode, decodeKey, hf, hEnd', hEsc']

/-- Settles O2: the full mask leaves one key, which is evaluated; the other mask reads `FSTATE` and the exclusions are the
keys of that state's two other rows. -/
theorem framerKeysDecodeByTheTable : Obligations.FramerKeysDecodeByTheTable := by
  intro k
  rw [key_and_fullMask, ← keyByte_eq_setWidth]
  exact ⟨by rintro rfl; rfl, by rintro rfl; rfl, fun h => decode_frmData (keyState_of_mask_zero h),
    by rintro rfl; rfl, by rintro rfl; rfl, fun h => decode_frmXbad (keyState_of_mask_one h)⟩

end Sys2Proof

namespace Sys2Proof.Machine

/-! ### A byte runs the row of its key -/

/-- The framer's choice of a row (R61) has the branches of its decode table (R42). -/
theorem exec_byte_eq_row (b : Byte) (s : State) :
    exec (.byte b) s = exec (decode (.key (framerKey s.fstate b))) s := by
  simp only [decode, decodeKey, keyState_framerKey, keyByte_framerKey, exec_byte, feed]
  cases s.fstate with
  | normal => dsimp only; split_ifs <;> rfl
  | escaped => dsimp only; split_ifs <;> rfl

/-- Settles O15: the key is `FSTATE`'s bit before the byte. -/
theorem byteRunsTheRowOfItsKey : Obligations.ByteRunsTheRowOfItsKey :=
  fun s b => ⟨fun hf => by rw [exec_byte_eq_row, hf]; rfl, fun hf => by rw [exec_byte_eq_row, hf]; rfl⟩

/-! ### The framer depends on its key, `BUF` and `CAP` only -/

/-- Two states agree on all that the framer reads (R41). -/
structure State.SameFramer (s u : State) : Prop where
  same_fstate : s.fstate = u.fstate
  same_buf : s.buf = u.buf
  same_cap : s.params.cap = u.params.cap

section
variable {s u : State} (h : s.SameFramer u)
include h

theorem State.SameFramer.setFstate (f : FState) : (s.setFstate f).SameFramer (u.setFstate f) :=
  ⟨rfl, h.same_buf, h.same_cap⟩

theorem State.SameFramer.setBuf (p : List Byte) : (s.setBuf p).SameFramer (u.setBuf p) :=
  ⟨h.same_fstate, rfl, h.same_cap⟩

theorem State.SameFramer.append (v : Byte) : (append v s).1.SameFramer (append v u).1 := by
  have hfull : s.buf.length = s.params.cap ↔ u.buf.length = u.params.cap := by rw [h.same_buf, h.same_cap]
  by_cases hs : s.buf.length = s.params.cap
  · rw [append_full hs, append_full (hfull.mp hs)]
    exact (h.setBuf []).setFstate .normal
  · rw [append_room hs, append_room (mt hfull.mpr hs), h.same_buf]
    exact h.setBuf _

theorem State.SameFramer.frmEnd : (frmEnd s).1.SameFramer (frmEnd u).1 := by
  by_cases hs : s.buf = []
  · rw [frmEnd_empty hs, frmEnd_empty (h.same_buf ▸ hs)]
    exact h
  · rw [frmEnd_packet hs, frmEnd_packet (h.same_buf ▸ hs)]
    exact h.setBuf []

theorem State.SameFramer.feed (b : Byte) : (feed b s).1.SameFramer (feed b u).1 := by
  unfold Machine.feed
  rw [h.same_fstate]
  cases u.fstate with
  | normal =>
    dsimp only
    split_ifs
    · exact h.frmEnd
    · exact h.setFstate .escaped
    · exact h.append b
  | escaped =>
    dsimp only
    split_ifs
    · exact (h.setFstate .normal).append frameEnd
    · exact (h.setFstate .normal).append frameEsc
    · exact (h.setBuf []).setFstate .normal

end

/-- Settles O17: equal keys are equal bytes in equal framer states, and settling writes neither `FSTATE` nor `BUF`. -/
theorem framerIsAFunctionOfItsKey : Obligations.FramerIsAFunctionOfItsKey := by
  refine ⟨fun f b => ⟨framerKey_setWidth f b, framerKey_getLsbD_eight f b⟩, ?_⟩
  intro s s' t t' b b' hkey hbuf hcap ht ht'
  obtain ⟨hf, rfl⟩ := framerKey_inj hkey
  have hfeed := (State.SameFramer.mk hf hbuf hcap).feed b
  rw [next_inj ((exec_byte b s).symm.trans ht), next_inj ((exec_byte b s').symm.trans ht')]
  simp only [settle_fstate, settle_buf]
  exact ⟨hfeed.same_fstate, hfeed.same_buf⟩

end Sys2Proof.Machine

namespace Sys2Proof

/-! ### The words of the opcode table -/

theorem bytesOfNat_zero (n : Nat) : bytesOfNat n 0 = List.replicate n 0 := by
  induction n with
  | zero => rfl
  | succ n ih => rw [bytesOfNat, List.replicate_succ, Nat.zero_div, ih]; rfl

theorem bytesOfNat_toNat (n : Nat) (b : Byte) : bytesOfNat (n + 1) b.toNat = b :: List.replicate n 0 := by
  rw [bytesOfNat, Nat.mod_eq_of_lt b.isLt, Nat.div_eq_of_lt b.isLt, BitVec.ofNat_toNat, BitVec.setWidth_eq,
    bytesOfNat_zero]

theorem tableCode_key (k : BitVec 9) : tableCode 16 k.toNat = some (.key k) := by
  rw [tableCode, if_pos (.inr rfl), if_pos k.isLt, BitVec.ofNat_toNat, BitVec.setWidth_eq]

theorem tableCode_tag (tag : Byte) : tableCode 8 tag.toNat = some (.packet (tag :: List.replicate 11 0)) := by
  rw [tableCode, if_neg (by decide), if_pos (by decide), Nat.mod_eq_of_lt tag.isLt]
  exact congrArg (fun p => some (Code.packet p)) (bytesOfNat_toNat 11 tag)

theorem framerKey_normal_toNat (b : Byte) : (framerKey .normal b).toNat = b.toNat := by
  rw [framerKey, BitVec.toNat_append]
  exact Nat.zero_or _

theorem framerKey_escaped_toNat (b : Byte) : (framerKey .escaped b).toNat = 256 + b.toNat := by
  rw [framerKey, BitVec.toNat_append]
  exact (Nat.two_pow_add_eq_or_of_lt b.isLt 1).symm

theorem decodeTableWord_of_tableCode {nbits w : Nat} {c : Code} (h : tableCode nbits w = some c) :
    decodeTableWord nbits w = some (decode c) := by rw [decodeTableWord, h, Option.map_some]

end Sys2Proof

namespace Sys2Proof.Machine

/-! ### A code placed for the next step is run by it -/

theorem State.withFetchWord_of_tableCode (s : State) {nbits w : Nat} {c : Code} (h : tableCode nbits w = some c) :
    s.withFetchWord nbits w = s.present c := by rw [State.withFetchWord, h]

theorem step_present_key (k : BitVec 9) (s : State) :
    step (s.present (.key k)) = exec (decode (.key k)) (s.setFstate (keyState k)) :=
  calc step (s.present (.key k))
    _ = exec (.byte (keyByte k)) (s.setFstate (keyState k)) :=
      step_of_inputs (s := s.present (.key k)) rfl
    _ = exec (decode (.key k)) (s.setFstate (keyState k)) := by
      rw [exec_byte_eq_row, State.setFstate_fstate, framerKey_keyState]

/-- The frame end of a non-empty packet hands it to the parser (R63, R90). -/
theorem step_present_packet {p : List Byte} (h : p ≠ []) (s : State) :
    step (s.present (.packet p)) = exec (decode (.packet p)) ((s.setFstate .normal).setBuf []) := by
  have hfeed : feed frameEnd ((s.setFstate .normal).setBuf p) = ((s.setFstate .normal).setBuf [], .packet p) :=
    frmEnd_packet (s := (s.setFstate .normal).setBuf p) h
  calc step (s.present (.packet p))
    _ = .next (settle (feed frameEnd ((s.setFstate .normal).setBuf p))) := step_byte rfl
    _ = exec (decode (.packet p)) ((s.setFstate .normal).setBuf []) := by
      rw [hfeed, settle_packet, exec_decode_packet]

/-- Settles O37: the table's word is the code, and the next step runs the code placed. -/
theorem fetchWordRunsItsInstruction : Obligations.FetchWordRunsItsInstruction := by
  refine ⟨fun s b => ?_, fun s tag => ?_⟩
  · have hn : tableCode 16 b.toNat = some (.key (framerKey .normal b)) := by
      rw [← framerKey_normal_toNat, tableCode_key]
    have he : tableCode 16 (256 + b.toNat) = some (.key (framerKey .escaped b)) := by
      rw [← framerKey_escaped_toNat, tableCode_key]
    rw [s.withFetchWord_of_tableCode hn, s.withFetchWord_of_tableCode he, step_present_key, step_present_key,
      keyState_framerKey, keyState_framerKey]
    exact ⟨rfl, rfl, decodeTableWord_of_tableCode hn, decodeTableWord_of_tableCode he⟩
  · have ht := tableCode_tag tag
    rw [s.withFetchWord_of_tableCode ht]
    exact ⟨step_present_packet (List.cons_ne_nil _ _) s, decodeTableWord_of_tableCode ht⟩

end Sys2Proof.Machine

/-! Family 40_framer: what each framer row gives as a whole next state (R63 to R68), and which row a byte runs. Then the
rules about streams: an escaped payload accumulates byte by byte, so a framed one is parsed as sent (R60, R70); the
resync and the capacity bound (R70); and a command comes only from a frame end (R69). -/

namespace Sys2Proof.Machine

/-! ### A register write of the value held -/

theorem State.setFstate_of_eq {s : State} {f : FState} (h : s.fstate = f) : s.setFstate f = s := by
  subst h; rfl

/-- `FSTATE` set and set back. -/
theorem State.setFstate_back {s : State} {f : FState} (g : FState) (h : s.fstate = f) :
    (s.setFstate g).setFstate f = s := State.setFstate_of_eq h

theorem State.setBuf_of_eq {s : State} {p : List Byte} (h : s.buf = p) : s.setBuf p = s := by
  subst h; rfl

/-! ### The framer's operations, settled -/

theorem settle_append_room {v : Byte} {s : State} (h : s.buf.length ≠ s.params.cap) :
    settle (append v s) = s.setBuf (s.buf ++ [v]) := by rw [append_room h, settle_nothing]

theorem settle_framerError (e : ErrorEvent) (s : State) :
    settle (framerError e s) = ((s.setFstate .normal).setBuf []).raise e := rfl

theorem settle_append_full {v : Byte} {s : State} (h : s.buf.length = s.params.cap) :
    settle (append v s) = ((s.setFstate .normal).setBuf []).raise .bufferOverflow := by
  rw [append_full h, settle_framerError]

/-! ### The rows of Normal -/

theorem exec_frmEnd_packet {s : State} (h : s.buf ≠ []) :
    exec .frmEnd s = exec (decode (.packet s.buf)) (s.setBuf []) := by
  rw [exec_decode_packet, ← settle_packet, ← frmEnd_packet h]; rfl

/-- A frame end leaves no byte in the buffer (R63). -/
theorem frmEnd_buf (s : State) : (frmEnd s).1.buf = [] := by
  by_cases h : s.buf = []
  · rw [frmEnd_empty h, h]
  · rw [frmEnd_packet h, State.setBuf_buf]

/-- Settles O9: the frame end of a non-empty buffer settles the packet that the buffer is. -/
theorem frameEndHandsOverTheBuffer : Obligations.FrameEndHandsOverTheBuffer := by
  intro s hf
  refine ⟨fun h => ?_, exec_frmEnd_packet, settle (frmEnd s), rfl, ?_, ?_⟩
  · exact congrArg (fun r => Host.Outcome.next (settle r)) (frmEnd_empty h)
  · rw [settle_fstate, frmEnd_fstate, hf]
  · rw [settle_buf, frmEnd_buf]

theorem exec_frmEsc (s : State) : exec .frmEsc s = .next (s.setFstate .escaped) := rfl

/-- Settles O10: the row writes `FSTATE` and yields nothing. -/
theorem escapeByteEntersEscaped : Obligations.EscapeByteEntersEscaped := fun s _ => exec_frmEsc s

theorem exec_frmData_room {b : Byte} {s : State} (h : s.buf.length ≠ s.params.cap) :
    exec (.frmData b) s = .next (s.setBuf (s.buf ++ [b])) := congrArg Host.Outcome.next (settle_append_room h)

theorem exec_frmData_full {b : Byte} {s : State} (hf : s.fstate = .normal) (h : s.buf.length = s.params.cap) :
    exec (.frmData b) s = .next ((s.setBuf []).raise .bufferOverflow) :=
  congrArg Host.Outcome.next ((settle_append_full h).trans (by rw [State.setFstate_of_eq hf]))

/-- Settles O11: the row is the capacity-checked append, and in Normal its recovery leaves `FSTATE` as it is. -/
theorem dataByteIsAppended : Obligations.DataByteIsAppended :=
  fun _ _ hf _ _ => ⟨exec_frmData_room, exec_frmData_full hf⟩

/-! ### The rows of Escaped -/

/-- An instruction that appends a literal once `FSTATE` is Normal does so with room, and overflows at `CAP` (R62). -/
theorem exec_literal {i : Instr} {v : Byte} {s : State}
    (hi : exec i s = .next (settle (append v (s.setFstate .normal)))) :
    (s.buf.length ≠ s.params.cap → exec i s = .next ((s.setFstate .normal).setBuf (s.buf ++ [v]))) ∧
    (s.buf.length = s.params.cap → exec i s = .next (((s.setFstate .normal).setBuf []).raise .bufferOverflow)) := by
  rw [hi]
  exact ⟨fun h => congrArg Host.Outcome.next (settle_append_room (s := s.setFstate .normal) h),
    fun h => congrArg Host.Outcome.next (settle_append_full (s := s.setFstate .normal) h)⟩

/-- Settles O12: the row appends the literal `0xC0`. -/
theorem escapedEndIsAppended : Obligations.EscapedEndIsAppended := fun _ _ => exec_literal rfl

/-- Settles O13: the row appends the literal `0xDB`. -/
theorem escapedEscapeIsAppended : Obligations.EscapedEscapeIsAppended := fun _ _ => exec_literal rfl

theorem exec_frmXbad (b : Byte) (s : State) :
    exec (.frmXbad b) s = .next (((s.setFstate .normal).setBuf []).raise (.unknownEscapedByte b)) :=
  congrArg Host.Outcome.next (settle_framerError _ s)

/-- Settles O14: the row is the framer's recovery with the byte as the error's payload. -/
theorem unknownEscapeIsDiscarded : Obligations.UnknownEscapeIsDiscarded := fun s b _ _ _ => exec_frmXbad b s

/-! ### The row a byte runs -/

section
variable {s : State} {b : Byte}

theorem exec_byte_frameEnd (hf : s.fstate = .normal) : exec (.byte frameEnd) s = exec .frmEnd s := by
  rw [exec_byte_eq_row, hf]; rfl

theorem exec_byte_frameEsc (hf : s.fstate = .normal) : exec (.byte frameEsc) s = exec .frmEsc s := by
  rw [exec_byte_eq_row, hf]; rfl

theorem exec_byte_data (hf : s.fstate = .normal) (hEnd : b ≠ frameEnd) (hEsc : b ≠ frameEsc) :
    exec (.byte b) s = exec (.frmData b) s := by
  have hrow : decode (.key (framerKey .normal b)) = .frmData b :=
    Laws.RoundTrip.frmData b (by simp [Instr.wf, hEnd, hEsc])
  rw [exec_byte_eq_row, hf, hrow]

theorem exec_byte_frameEscEnd (hf : s.fstate = .escaped) : exec (.byte frameEscEnd) s = exec .frmXend s := by
  rw [exec_byte_eq_row, hf]; rfl

theorem exec_byte_frameEscEsc (hf : s.fstate = .escaped) : exec (.byte frameEscEsc) s = exec .frmXesc s := by
  rw [exec_byte_eq_row, hf]; rfl

theorem exec_byte_badEscape (hf : s.fstate = .escaped) (hEnd : b ≠ frameEscEnd) (hEsc : b ≠ frameEscEsc) :
    exec (.byte b) s = exec (.frmXbad b) s := by
  have hrow : decode (.key (framerKey .escaped b)) = .frmXbad b :=
    Laws.RoundTrip.frmXbad b (by simp [Instr.wf, hEnd, hEsc])
  rw [exec_byte_eq_row, hf, hrow]

end

/-! ### Short streams -/

theorem runBytes_singleton (b : Byte) (s : State) : runBytes [b] s = exec (.byte b) s :=
  runBytes_cons (exec_byte b s)

/-- In Normal an escape is two bytes, the second of which is read in Escaped (R64). -/
theorem runBytes_escapePair {s : State} (hf : s.fstate = .normal) (b : Byte) :
    runBytes [frameEsc, b] s = exec (.byte b) (s.setFstate .escaped) := by
  rw [runBytes_cons ((exec_byte_frameEsc hf).trans (exec_frmEsc s)), runBytes_singleton]

/-- Settles O48: the second byte runs the bad escape's row, which returns to the `FSTATE` the stream began in. -/
theorem resyncFromNormal : Obligations.ResyncFromNormal := by
  intro s x hf hEnd hEsc
  calc runBytes [frameEsc, x] s
    _ = exec (.frmXbad x) (s.setFstate .escaped) := by
      rw [runBytes_escapePair hf, exec_byte_badEscape (State.setFstate_fstate s .escaped) hEnd hEsc]
    _ = .next ((s.setBuf []).raise (.unknownEscapedByte x)) := by rw [exec_frmXbad, State.setFstate_back _ hf]

/-! ### An escaped payload accumulates -/

/-- An escape whose second byte's row appends a literal is that literal's append (R66, R67). -/
theorem runBytes_literal {s : State} {b v : Byte} (hf : s.fstate = .normal) (hroom : s.buf.length ≠ s.params.cap)
    (hb : exec (.byte b) (s.setFstate .escaped) =
      .next (settle (append v ((s.setFstate .escaped).setFstate .normal)))) :
    runBytes [frameEsc, b] s = .next (s.setBuf (s.buf ++ [v])) :=
  calc runBytes [frameEsc, b] s
    _ = exec (.byte b) (s.setFstate .escaped) := runBytes_escapePair hf b
    _ = .next (((s.setFstate .escaped).setFstate .normal).setBuf (s.buf ++ [v])) := (exec_literal hb).1 hroom
    _ = .next (s.setBuf (s.buf ++ [v])) := by rw [State.setFstate_back _ hf]

/-- The wire bytes of one payload byte append that byte, whichever of the three escapes it has (R60, R62). -/
theorem runBytes_escapeByte {s : State} (v : Byte) (hf : s.fstate = .normal) (hroom : s.buf.length ≠ s.params.cap) :
    runBytes (escapeByte v) s = .next (s.setBuf (s.buf ++ [v])) := by
  by_cases hEnd : v = frameEnd
  · rw [hEnd]
    exact runBytes_literal hf hroom (exec_byte_frameEscEnd (State.setFstate_fstate s .escaped))
  by_cases hEsc : v = frameEsc
  · rw [hEsc]
    exact runBytes_literal hf hroom (exec_byte_frameEscEsc (State.setFstate_fstate s .escaped))
  rw [escapeByte_of_ne hEnd hEsc, runBytes_singleton, exec_byte_data hf hEnd hEsc, exec_frmData_room hroom]

/-- An escaped payload that fits is appended to the buffer whole, and nothing else changes (R60, R70). -/
theorem runBytes_escape (p : List Byte) {s : State} (hf : s.fstate = .normal)
    (hfit : s.buf.length + p.length ≤ s.params.cap) : runBytes (escape p) s = .next (s.setBuf (s.buf ++ p)) := by
  induction p generalizing s with
  | nil => rw [List.append_nil, State.setBuf_of_eq rfl]; rfl
  | cons v p ih =>
    rw [List.length_cons] at hfit
    have hfit' : (s.buf ++ [v]).length + p.length ≤ s.params.cap := by
      rw [List.length_append, List.length_singleton]; omega
    calc runBytes (escape (v :: p)) s
      _ = runBytes (escape p) (s.setBuf (s.buf ++ [v])) := by
        rw [escape_cons, runBytes_append (runBytes_escapeByte v hf (by omega))]
      _ = .next ((s.setBuf (s.buf ++ [v])).setBuf ((s.buf ++ [v]) ++ p)) := ih hf hfit'
      _ = .next (s.setBuf (s.buf ++ v :: p)) := by rw [List.append_assoc]; rfl

/-- Settles O46: the escaped payload is in the buffer when the frame end hands the buffer over. -/
theorem framedPayloadIsParsedAsSent : Obligations.FramedPayloadIsParsedAsSent := by
  intro s payload hf hbuf hne hlen
  have hfull : runBytes (escape payload) s = .next (s.setBuf payload) := by
    rw [runBytes_escape payload hf (by rwa [hbuf, List.length_nil, Nat.zero_add]), hbuf, List.nil_append]
  have hclear : (s.setBuf payload).setBuf [] = s := State.setBuf_of_eq hbuf
  calc runBytes (escape payload ++ [frameEnd]) s
    _ = exec .frmEnd (s.setBuf payload) := by
      rw [runBytes_append hfull, runBytes_singleton, exec_byte_frameEnd (s := s.setBuf payload) hf]
    _ = exec (decode (.packet payload)) s := by
      rw [exec_frmEnd_packet (s := s.setBuf payload) hne, hclear, State.setBuf_buf]

/-! ### Capacity -/

/-- Plain bytes are their own escape (R60). -/
theorem escape_of_plain {raw : List Byte} (h : ∀ v ∈ raw, v ≠ frameEnd ∧ v ≠ frameEsc) : escape raw = raw := by
  induction raw with
  | nil => rfl
  | cons v raw ih =>
    obtain ⟨⟨hEnd, hEsc⟩, hraw⟩ := List.forall_mem_cons.mp h
    rw [escape_cons, escapeByte_of_ne hEnd hEsc, ih hraw, List.singleton_append]

/-- Settles O49: plain bytes accumulate as an escaped payload does, and the last one meets a full buffer. -/
theorem capacityBound : Obligations.CapacityBound := by
  intro s raw last hf hplain hcap
  obtain ⟨⟨hEnd, hEsc⟩, hraw⟩ := List.forall_mem_cons.mp hplain
  have hfill : runBytes raw s = .next (s.setBuf (s.buf ++ raw)) := by
    rw [← runBytes_escape raw hf hcap.le, escape_of_plain hraw]
  have hfull : (s.setBuf (s.buf ++ raw)).buf.length = s.params.cap := List.length_append.trans hcap
  refine ⟨hfill, ?_⟩
  rw [runBytes_append hfill, runBytes_singleton, exec_byte_data (s := s.setBuf (s.buf ++ raw)) hf hEnd hEsc,
    exec_frmData_full (s := s.setBuf (s.buf ++ raw)) hf hfull]
  rfl

/-! ### Where commands come from -/

theorem append_not_packet (v : Byte) (s : State) (p : List Byte) : (append v s).2 ≠ .packet p := by
  obtain ⟨-, e⟩ | ⟨-, e⟩ := append_cases v s <;> rw [e] <;> exact FeedResult.noConfusion

/-- Of the six rows of R42 only the frame end's yields a packet, and it is a row of Normal (R63). -/
theorem feed_packet {b : Byte} {s : State} {p : List Byte} (h : (feed b s).2 = .packet p) :
    s.fstate = .normal ∧ b = frameEnd := by
  obtain ⟨hf, hb, -⟩ | ⟨-, -, e⟩ | ⟨-, -, -, e⟩ | ⟨-, -, e⟩ | ⟨-, -, e⟩ | ⟨-, -, -, e⟩ := feed_cases b s
  · exact ⟨hf, hb⟩
  all_goals rw [e] at h
  · cases h
  · exact absurd h (append_not_packet _ _ _)
  · exact absurd h (append_not_packet _ _ _)
  · exact absurd h (append_not_packet _ _ _)
  · cases h

theorem ne_append_singleton (l : List OutEvent) (e : OutEvent) : l ≠ l ++ [e] :=
  mt List.self_eq_append_right.mp (List.cons_ne_nil e [])

/-- A framer row whose settling emits a command is the one that hands a non-empty buffer over (R63, R90). -/
theorem FramerRow.packet_of_command {s : State} {r : State × FeedResult} {c : Command} (h : FramerRow s r)
    (hc : (settle r).trace = s.trace ++ [.cmd c]) : s.buf ≠ [] ∧ r = (s.setBuf [], .packet s.buf) := by
  cases h with
  | idle => exact absurd hc (ne_append_singleton _ _)
  | packet h => exact ⟨h, rfl⟩
  | escape => exact absurd hc (ne_append_singleton _ _)
  | room => exact absurd hc (ne_append_singleton _ _)
  | error e => exact nomatch List.append_cancel_left hc

/-- Settles O43: a command comes from a byte whose row yields a packet, which is the frame end's in Normal. -/
theorem commandsOnlyAtAFrameEnd : Obligations.CommandsOnlyAtAFrameEnd := by
  intro s t c h hc
  obtain ⟨-, rfl⟩ | ⟨es, -, rfl⟩ | ⟨es, -, rfl⟩ | ⟨b, es, hin, rfl⟩ := step_next_cases h
  · exact absurd hc (ne_append_singleton _ _)
  · exact absurd hc (ne_append_singleton _ _)
  · exact absurd hc (ne_append_singleton _ _)
  · have hrow := FramerRow.of_feed b (s.setInputs es)
    obtain ⟨hbuf, hr⟩ := hrow.packet_of_command hc
    obtain ⟨hf, rfl⟩ := feed_packet (congrArg Prod.snd hr)
    obtain ⟨ev, hev⟩ := hrow.outputs
    have hcmd : ev = [.cmd c] := List.append_cancel_left (hev.trace_eq.symm.trans hc)
    refine ⟨hf, by rw [hin]; rfl, hbuf, ?_, ?_, ?_⟩
    · rw [settle_fstate, hr]; exact hf
    · rw [settle_buf, hr, State.setBuf_buf]
    · rw [hev.cmds_eq, hcmd]; rfl

end Sys2Proof.Machine

/-! Family 41_command_parser: dispatch and decode map are one function (R55, R72); what a parse and an instruction do to
the colour context (R71, R87); and each packet form, by tag and length, as a whole next state (R73 to R86). -/

namespace Sys2Proof.Machine

/-! ### Dispatch and decode -/

/-- Settles O27: the branches of the two are the same. -/
theorem parseAgreesWithTheDecodedForm : Obligations.ParseAgreesWithTheDecodedForm := fun s p => exec_decode_packet p s

/-! ### The colour context -/

/-- What a parse of packet `p` can do to the colour context: keep it, or make it a rectangle's own colour (R87). -/
inductive ParseColour (p : List Byte) (C : Colour) : ParseOutcome × Colour → Prop
  /-- Every outcome but those of the two forms below (R71). -/
  | keeps (o : ParseOutcome) : ParseColour p C (o, C)
  /-- RECT8 (R79). -/
  | rect8 (ht : p.head? = some tagRectangle) (hn : p.length = 8) :
      ParseColour p C (parseRect8 (posAt p 1) (rgb p 5) C)
  /-- RECT12 (R81). -/
  | rect12 (ht : p.head? = some tagRectangle) (hn : p.length = 12) :
      ParseColour p C (parseRect12 (posAt p 1) (sizeAt p 5) (rgb p 9) C)

/-- The branches of the dispatch procedure (R72). -/
theorem ParseColour.of_parse (p : List Byte) (C : Colour) : ParseColour p C (parse p C) := by
  unfold parse
  split
  case isTrue => exact .keeps _
  case isFalse h0 =>
  split
  case isTrue => split_ifs <;> exact .keeps _
  case isFalse =>
  split
  case isTrue => split_ifs <;> exact .keeps _
  case isFalse =>
  split
  case isTrue hr =>
    have ht : p.head? = some tagRectangle := hr ▸ head?_eq_byteAt_zero h0
    split_ifs with h5 h8 h9 h12
    · exact .keeps _
    · exact .rect8 ht h8
    · exact .keeps _
    · exact .rect12 ht h12
    · exact .keeps _
  case isFalse => split_ifs <;> exact .keeps _

/-- Settles O28: the two forms that set the context draw with the colour they set. -/
theorem parseKeepsTheColourContext : Obligations.ParseKeepsTheColourContext := by
  intro p C
  have h := ParseColour.of_parse p C
  generalize parse p C = r at h ⊢
  cases h with
  | keeps => exact .inl rfl
  | rect8 ht hn => exact .inr ⟨ht, .inl hn, posAt p 1, defaultSize, rfl⟩
  | rect12 ht hn => exact .inr ⟨ht, .inr hn, posAt p 1, sizeAt p 5, rfl⟩

/-- A rectangle form that carries the colour `C` (R48, R50). -/
def CarriesColour (i : Instr) (C : Colour) : Prop :=
  (∃ pos, i = .cmdRect8 pos C) ∨ (∃ pos size, i = .cmdRect12 pos size C)

/-- A context that differs after a parse is the colour that the packet's form carries (R87). -/
theorem ParseColour.carries {p : List Byte} {C : Colour} {r : ParseOutcome × Colour} (h : ParseColour p C r)
    (hne : r.2 ≠ C) : CarriesColour (decode (.packet p)) r.2 := by
  cases h with
  | keeps => exact absurd rfl hne
  | rect8 ht hn => exact .inl ⟨_, decode_cmdRect8 ht hn⟩
  | rect12 ht hn => exact .inr ⟨_, _, decode_cmdRect12 ht hn⟩

/-- A framer row whose settling changes `COLOUR` hands a packet over, whose form carries the new colour (R63, R90). -/
theorem FramerRow.packet_of_colour {s : State} {r : State × FeedResult} (h : FramerRow s r)
    (hne : (settle r).colour ≠ s.colour) :
    r.2 = .packet s.buf ∧ CarriesColour (decode (.packet s.buf)) (settle r).colour := by
  cases h with
  | idle => exact absurd rfl hne
  | packet =>
    rw [settle_packet, State.deliver_colour] at hne ⊢
    exact ⟨rfl, (ParseColour.of_parse s.buf s.colour).carries hne⟩
  | escape => exact absurd rfl hne
  | room => exact absurd rfl hne
  | error => exact absurd rfl hne

theorem settle_append_colour (v : Byte) (s : State) : (settle (append v s)).colour = s.colour := by
  by_cases h : s.buf.length = s.params.cap
  · rw [settle_append_full h]; rfl
  · rw [settle_append_room h, State.setBuf_colour]

/-- The instructions that can change `COLOUR`, and what they write (R87, R92). -/
theorem colour_written {i : Instr} {s t : State} (h : exec i s = .next t) (hne : t.colour ≠ s.colour) :
    (i = .reset ∧ t.colour = s.params.resetColour) ∨ CarriesColour i t.colour ∨
    ((i = .frmEnd ∨ (i = .byte frameEnd ∧ s.fstate = .normal)) ∧
      CarriesColour (decode (.packet s.buf)) t.colour) := by
  cases i with
  | reset => exact .inl ⟨rfl, by rw [next_inj h]; rfl⟩
  | byte b =>
    obtain rfl := next_inj h
    obtain ⟨hp, hc⟩ := (FramerRow.of_feed b s).packet_of_colour hne
    obtain ⟨hf, rfl⟩ := feed_packet hp
    exact .inr (.inr ⟨.inr ⟨rfl, hf⟩, hc⟩)
  | frmEnd =>
    obtain rfl := next_inj h
    obtain ⟨-, hc⟩ := (FramerRow.of_frmEnd s).packet_of_colour hne
    exact .inr (.inr ⟨.inl rfl, hc⟩)
  | frmData b => exact absurd (next_inj h ▸ settle_append_colour b s) hne
  | frmXend => exact absurd (next_inj h ▸ settle_append_colour frameEnd (s.setFstate .normal)) hne
  | frmXesc => exact absurd (next_inj h ▸ settle_append_colour frameEsc (s.setFstate .normal)) hne
  | cmdRect8 pos col => exact .inr (.inl (.inl ⟨pos, by rw [next_inj h]; rfl⟩))
  | cmdRect12 pos size col => exact .inr (.inl (.inr ⟨pos, size, by rw [next_inj h]; rfl⟩))
  | _ => exact absurd (by rw [next_inj h]; rfl) hne

/-- Settles O29: the writers of `COLOUR` are those of `colour_written`, and the two rectangle forms do write it. -/
theorem colourWriteDiscipline : Obligations.ColourWriteDiscipline := by
  refine ⟨fun i s t h hne => ?_, fun s t pos size col => ⟨fun h => ?_, fun h => ?_⟩⟩
  · obtain hreset | (hrect8 | hrect12) | hend := colour_written h hne
    · exact .inl hreset
    · exact .inr (.inl hrect8)
    · exact .inr (.inr (.inl hrect12))
    · exact .inr (.inr (.inr hend))
  · rw [next_inj h]; rfl
  · rw [next_inj h]; rfl

/-! ### What a form's outcome does to the state -/

section
variable {i : Instr} {s : State}

/-- A form that draws with colour context `C'` adds its command to `CMDS` and to the trace (R90). -/
theorem exec_command {c : Command} {C' : Colour} (h : exec i s = .next (s.deliver (.cmd c, C'))) :
    exec i s = .next { s with colour := C', cmds := s.cmds ++ [c], trace := s.trace ++ [.cmd c] } := h

/-- A form that keeps the colour context does nothing more (R90). -/
theorem exec_command_keepsColour {c : Command} (h : exec i s = .next (s.deliver (.cmd c, s.colour))) :
    exec i s = .next { s with cmds := s.cmds ++ [c], trace := s.trace ++ [.cmd c] } := h

/-- A form that answers an error raises it and does nothing more (R71, R90). -/
theorem exec_parseError {e : ErrorEvent} (h : exec i s = .next (s.deliver (parseError e s.colour))) :
    exec i s = .next { s with trace := s.trace ++ [.err e] } := h

end

/-! ### The forms of accepted length -/

/-- Settles O18: the command takes the context's colour, which is delivered back. -/
theorem rectangleWithContextColour : Obligations.RectangleWithContextColour :=
  ⟨fun _ _ => exec_command_keepsColour rfl, fun _ _ _ => exec_command_keepsColour rfl,
    fun _ => decode_cmdRect5, fun _ => decode_cmdRect9⟩

/-- Settles O19: the command's own colour is delivered as the new context. -/
theorem rectangleWithInlineColour : Obligations.RectangleWithInlineColour :=
  ⟨fun _ _ _ => exec_command rfl, fun _ _ _ _ => exec_command rfl,
    fun _ => decode_cmdRect8, fun _ => decode_cmdRect12⟩

/-- Settles O20: the samples are the packet's bytes from offset 4 on. -/
theorem waveformCommand : Obligations.WaveformCommand :=
  ⟨fun _ _ _ => exec_command_keepsColour rfl,
    fun _ ht h4 h484 => decode_cmdWave ht (waveLengthOk_iff.mpr ⟨h4, h484⟩)⟩

/-- Settles O21: the row of the tag at length 12, whose reads are in bounds. -/
theorem characterCommand : Obligations.CharacterCommand := by
  refine ⟨fun _ _ _ _ _ => exec_command_keepsColour rfl, fun p hn ht => ?_⟩
  rw [decode_cmdChar ht hn, byteAt_eq_getElem (by omega)]
  rfl

/-- Settles O22: the row of the tag at six bytes or more, whose reads are in bounds. -/
theorem systemInfoCommand : Obligations.SystemInfoCommand := by
  refine ⟨fun _ _ _ _ _ _ _ => exec_command_keepsColour rfl, fun p hn ht => ?_⟩
  rw [decode_cmdSysinfo ht (sysinfoLengthOk_iff.mpr hn)]
  simp only [byteAt_eq_getElem, show 1 < p.length by omega, show 2 < p.length by omega, show 3 < p.length by omega,
    show 4 < p.length by omega, show 5 < p.length by omega]
  rfl

/-! ### The forms that report an error or are ignored -/

/-- A packet decodes to a form that keeps every byte after the tag (log entry 19) where the form's condition holds. -/
theorem decode_of_rest {p : List Byte} {t : Byte} {i : Instr} (ht : p.head? = some t)
    (hi : encode i = .packet (t :: p.drop 1)) (hwf : 1 + (p.drop 1).length = p.length → i.wf = true) :
    decode (.packet p) = i := by
  obtain ⟨rest, rfl⟩ := List.head?_eq_some_iff.mp ht
  have hround : decode (encode i) = i := decodeOfEncode i (hwf (Nat.add_comm 1 rest.length))
  rwa [hi] at hround

/-- Settles O23: each tag's row of wrong length, which answers that tag's error. -/
theorem wrongLengthsAreReported : Obligations.WrongLengthsAreReported := by
  intro s p
  refine ⟨?wave, ?char, ?rect, ?sysinfo⟩
  case wave =>
    exact fun ht hn => ⟨decode_of_rest ht rfl fun hl => not_test_of_not waveLengthOk_iff (by omega),
      exec_parseError rfl⟩
  case char =>
    exact fun ht hn => ⟨decode_of_rest ht rfl fun hl => not_test_of_not charLengthOk_iff (hl ▸ hn),
      exec_parseError rfl⟩
  case rect =>
    exact fun ht hn => ⟨decode_of_rest ht rfl fun hl => not_test_of_not rectLengthOk_iff (hl ▸ hn),
      exec_parseError rfl⟩
  case sysinfo =>
    exact fun ht hn => ⟨decode_of_rest ht rfl fun hl => not_test_of_not sysinfoLengthOk_iff (by omega),
      exec_parseError rfl⟩

/-- Settles O24: a tag outside the five leaves the last row, at every length. -/
theorem unknownTagIsReported : Obligations.UnknownTagIsReported :=
  fun _ tag rest h =>
    ⟨Laws.RoundTrip.cmdUnrecognized tag rest (not_test_of_not knownTag_iff h), exec_parseError rfl⟩

/-- Settles O25: the empty packet is the first row. -/
theorem emptyPacketIsReported : Obligations.EmptyPacketIsReported :=
  fun _ => ⟨Laws.RoundTrip.cmdEmpty rfl, exec_parseError rfl⟩

/-- Settles O26: the row has no condition on the length, and its outcome delivers the context back. -/
theorem keypressIsIgnored : Obligations.KeypressIsIgnored :=
  fun _ rest => ⟨Laws.RoundTrip.cmdKeypress rest rfl, rfl⟩

end Sys2Proof.Machine

/-! Family 42_decoder: each input event as one total function of the state (`State.after`), so that a step and a run are
that function and its fold (R89). From it the whole of a `Byte` step (R90), what a step adds to `CMDS` (R90 to R92, R116),
that the command list feeds nothing back into decoding (R95, R119), and the rules about runs and cycles (R93, R94). -/

namespace Sys2Proof.Machine

/-! ### What an input event leaves -/

/-- The state that an input event leaves (R90 to R92). -/
def State.after (s : State) : Input → State
  | .reset => (((s.setFstate .normal).setBuf []).setColour s.params.resetColour).setCmds []
  | .cycleStart => s.setCmds []
  | .byte b => settle (feed b s)

theorem exec_event (e : Input) (s : State) : exec (decode (.event e)) s = .next (s.after e) := by
  cases e <;> rfl

theorem step_idle {s : State} (h : s.inputs = []) : step s = .next s := by simp [step, State.fetch, h]

theorem step_after {s : State} {e : Input} {es : List Input} (h : s.inputs = e :: es) :
    step s = .next ((s.setInputs es).after e) := (step_of_inputs h).trans (exec_event e _)

/-- Every run completes, and is the fold of its inputs' effects (R89, R96). -/
theorem runInputs_eq_foldl (es : List Input) (s : State) : runInputs es s = .next (es.foldl State.after s) := by
  induction es generalizing s with
  | nil => rfl
  | cons e es ih => rw [runInputs_cons (exec_event e s), ih, List.foldl_cons]

/-- Settles O36: `fetch` answers the first pending input, or nothing. -/
theorem stepRunsTheNextInput : Obligations.StepRunsTheNextInput := ⟨fun _ _ _ => step_of_inputs, fun _ => step_idle⟩

/-- Settles O31: the meaning writes `CMDS` and no other field. -/
theorem cycleStartClearsTheCommands : Obligations.CycleStartClearsTheCommands := exec_event .cycleStart

/-- What a Reset leaves is the constructed state, but for the two fields of the model's own (R92, R113). -/
theorem State.after_reset (s : State) :
    s.after .reset = { State.construct s.params with inputs := s.inputs, trace := s.trace } := rfl

/-- Settles O32: the four writes are the reset values that construction gives. -/
theorem resetGivesTheConstructedState : Obligations.ResetGivesTheConstructedState :=
  fun s => ⟨exec_event .reset s, (exec_event .reset s).trans (congrArg Host.Outcome.next s.after_reset)⟩

/-! ### The events and the commands of a step -/

theorem State.after_byte_outputs (s : State) (b : Byte) : ∃ ev, Outputs s ev (s.after (.byte b)) :=
  (FramerRow.of_feed b s).outputs

/-- Settles O57: a byte adds the events and commands that settling its framer row outputs; every other step adds no event,
and a Reset or a CycleStart clears `CMDS`. -/
theorem stepAddsTheCommandsOfItsEvents : Obligations.StepAddsTheCommandsOfItsEvents := by
  intro s t h
  obtain ⟨hin, rfl⟩ | ⟨es, hin, rfl⟩ | ⟨es, hin, rfl⟩ | ⟨b, es, hin, rfl⟩ := step_next_cases h
  · have hidle := Outputs.nothing t
    exact ⟨[], hidle.trace_eq, fun _ _ => hidle.cmds_eq, by simp [hin]⟩
  · exact ⟨[], (List.append_nil _).symm, by simp [hin], fun _ => ⟨rfl, rfl⟩⟩
  · exact ⟨[], (List.append_nil _).symm, by simp [hin], fun _ => ⟨rfl, rfl⟩⟩
  · obtain ⟨ev, hev⟩ := (s.setInputs es).after_byte_outputs b
    exact ⟨ev, hev.trace_eq, fun _ _ => hev.cmds_eq, by simp [hin]⟩

/-! ### States that decode alike stay so -/

/-- Two answers of the framer agree: the states decode alike, and the yields are equal. -/
structure YieldsAlike (r q : State × FeedResult) : Prop where
  states : r.1.DecodesAlike q.1
  same_yield : r.2 = q.2

section
variable {s u : State} (h : s.DecodesAlike u)
include h

theorem State.DecodesAlike.setFstate (f : FState) : (s.setFstate f).DecodesAlike (u.setFstate f) :=
  ⟨h.same_trace, rfl, h.same_buf, h.same_colour, h.same_params⟩

theorem State.DecodesAlike.setBuf (p : List Byte) : (s.setBuf p).DecodesAlike (u.setBuf p) :=
  ⟨h.same_trace, h.same_fstate, rfl, h.same_colour, h.same_params⟩

/-- Decoding reads no pending input but the one it takes. -/
theorem State.DecodesAlike.setInputs (es es' : List Input) : (s.setInputs es).DecodesAlike (u.setInputs es') :=
  ⟨h.same_trace, h.same_fstate, h.same_buf, h.same_colour, h.same_params⟩

theorem State.DecodesAlike.raise (e : ErrorEvent) : (s.raise e).DecodesAlike (u.raise e) :=
  ⟨congrArg (· ++ [OutEvent.err e]) h.same_trace, h.same_fstate, h.same_buf, h.same_colour, h.same_params⟩

theorem State.DecodesAlike.framerError (e : ErrorEvent) : YieldsAlike (framerError e s) (framerError e u) :=
  ⟨(h.setBuf []).setFstate .normal, rfl⟩

theorem State.DecodesAlike.append (v : Byte) : YieldsAlike (append v s) (append v u) := by
  have hfull : s.buf.length = s.params.cap ↔ u.buf.length = u.params.cap := by rw [h.same_buf, h.same_params]
  by_cases hs : s.buf.length = s.params.cap
  · rw [append_full hs, append_full (hfull.mp hs)]
    exact h.framerError .bufferOverflow
  · rw [append_room hs, append_room (mt hfull.mpr hs), h.same_buf]
    exact ⟨h.setBuf _, rfl⟩

theorem State.DecodesAlike.frmEnd : YieldsAlike (frmEnd s) (frmEnd u) := by
  by_cases hs : s.buf = []
  · rw [frmEnd_empty hs, frmEnd_empty (h.same_buf ▸ hs)]
    exact ⟨h, rfl⟩
  · rw [frmEnd_packet hs, frmEnd_packet (h.same_buf ▸ hs), h.same_buf]
    exact ⟨h.setBuf [], rfl⟩

/-- The six rows of R42: the row chosen reads `FSTATE`, in which the two states agree. -/
theorem State.DecodesAlike.feed (b : Byte) : YieldsAlike (feed b s) (feed b u) := by
  unfold Machine.feed
  rw [h.same_fstate]
  cases u.fstate with
  | normal =>
    dsimp only
    split_ifs
    · exact h.frmEnd
    · exact ⟨h.setFstate .escaped, rfl⟩
    · exact h.append b
  | escaped =>
    dsimp only
    split_ifs
    · exact (h.setFstate .normal).append frameEnd
    · exact (h.setFstate .normal).append frameEsc
    · exact h.framerError (.unknownEscapedByte b)

end

/-- Settling reads the yield and the colour context beside the state it writes (R90). -/
theorem YieldsAlike.settle {r q : State × FeedResult} (h : YieldsAlike r q) : (settle r).DecodesAlike (settle q) := by
  obtain ⟨s, y⟩ := r
  obtain ⟨u, z⟩ := q
  obtain ⟨hs, rfl : y = z⟩ := h
  cases y with
  | nothing => exact hs
  | packet p =>
    rw [settle_packet, settle_packet, hs.same_colour]
    exact hs.deliver _
  | error e => exact hs.raise e

section
variable {s u : State} (h : s.DecodesAlike u)
include h

theorem State.DecodesAlike.after (e : Input) : (s.after e).DecodesAlike (u.after e) := by
  cases e with
  | reset => exact ⟨h.same_trace, rfl, rfl, congrArg Params.resetColour h.same_params, h.same_params⟩
  | cycleStart => exact ⟨h.same_trace, h.same_fstate, h.same_buf, h.same_colour, h.same_params⟩
  | byte b => exact (h.feed b).settle

/-- The start of a cycle writes nothing that decoding reads (R91, R95). -/
theorem State.DecodesAlike.after_cycleStart : (s.after .cycleStart).DecodesAlike u :=
  ⟨h.same_trace, h.same_fstate, h.same_buf, h.same_colour, h.same_params⟩

end

/-- Settles O58: a step is the effect of the first pending input, which keeps agreement where both states take it, and on
one side alone where it is a CycleStart. -/
theorem stepsKeepDecodingAlike : Obligations.StepsKeepDecodingAlike := by
  intro s u t h ht
  refine ⟨fun hs => ?_, fun v hsame hv => ?_⟩
  · obtain ⟨es, hin⟩ := List.head?_eq_some_iff.mp hs
    rw [next_inj ((step_after hin).symm.trans ht)]
    exact (h.setInputs es u.inputs).after_cycleStart
  · cases hin : s.inputs with
    | nil =>
      have hin' : u.inputs = [] := List.head?_eq_none_iff.mp (by rw [← hsame, hin]; rfl)
      rwa [next_inj ((step_idle hin).symm.trans ht), next_inj ((step_idle hin').symm.trans hv)]
    | cons e es =>
      obtain ⟨es', hin'⟩ := List.head?_eq_some_iff.mp (show u.inputs.head? = some e by rw [← hsame, hin]; rfl)
      rw [next_inj ((step_after hin).symm.trans ht), next_inj ((step_after hin').symm.trans hv)]
      exact (h.setInputs es es').after e

/-- Two runs from states that decode alike, the second without its cycle starts, end in states that do. -/
theorem State.DecodesAlike.foldl_filter {s u : State} (h : s.DecodesAlike u) (es : List Input) :
    (es.foldl State.after s).DecodesAlike ((es.filter (fun e => e ≠ .cycleStart)).foldl State.after u) := by
  induction es generalizing s u with
  | nil => exact h
  | cons e es ih =>
    by_cases he : e = .cycleStart
    · rw [List.filter_cons_of_neg (by simp [he]), he]
      exact ih h.after_cycleStart
    · rw [List.filter_cons_of_pos (by simp [he])]
      exact ih (h.after e)

/-- Settles O52: the two runs begin in one state. -/
theorem cycleStartsDoNotAffectDecoding : Obligations.CycleStartsDoNotAffectDecoding := by
  intro es s
  have h := (State.DecodesAlike.refl s).foldl_filter es
  exact ⟨_, _, runInputs_eq_foldl _ _, runInputs_eq_foldl _ _, h.same_trace, h.same_fstate, h.same_buf, h.same_colour⟩

/-! ### Every instruction completes and keeps the pending inputs -/

theorem FramerRow.inputs_eq {s : State} {r : State × FeedResult} (h : FramerRow s r) : r.1.inputs = s.inputs := by
  cases h <;> rfl

@[simp] theorem settle_inputs (r : State × FeedResult) : (settle r).inputs = r.1.inputs := by
  obtain ⟨s, y⟩ := r
  cases y with
  | nothing => rfl
  | packet p => rw [settle_packet, State.deliver_inputs]
  | error e => rw [settle_error, State.raise_inputs]

/-- Every instruction answers a next state in every state (R89, R96, R110), takes no pending input, and adds to the trace
at its end only. -/
theorem exec_completes (i : Instr) (s : State) :
    ∃ t, exec i s = .next t ∧ t.inputs = s.inputs ∧ s.trace <+: t.trace := by
  obtain ⟨-, e⟩ | ⟨-, e⟩ | ⟨r, hr, e⟩ | ⟨r, e⟩ := exec_cases i s
  · exact ⟨_, e, rfl, [], List.append_nil _⟩
  · exact ⟨_, e, rfl, [], List.append_nil _⟩
  · obtain ⟨ev, hev⟩ := hr.outputs
    exact ⟨_, e, by rw [settle_inputs, hr.inputs_eq], ev, hev.trace_eq.symm⟩
  · exact ⟨_, e, State.deliver_inputs s r, _, (State.deliver_trace s r).symm⟩

/-- Settles O35: the four things an instruction can do all answer a next state, and a step is idle or runs one with the
first input taken. -/
theorem everyInstructionCompletes : Obligations.EveryInstructionCompletes := by
  refine ⟨exec_completes, fun s => ?_⟩
  obtain ⟨hin, e⟩ | ⟨i, es, hin, e⟩ := step_cases s
  · exact ⟨s, e, by rw [hin]; rfl⟩
  · obtain ⟨t, ht, hti, -⟩ := exec_completes (decode (.event i)) (s.setInputs es)
    exact ⟨t, e.trans ht, by rw [hti, hin]; rfl⟩

theorem State.after_inputs (s : State) (e : Input) : (s.after e).inputs = s.inputs := by
  obtain ⟨t, ht, hti, -⟩ := exec_completes (decode (.event e)) s
  rw [← next_inj ((exec_event e s).symm.trans ht), hti]

theorem State.after_params (s : State) (e : Input) : (s.after e).params = s.params := exec_keeps_params (exec_event e s)

/-! ### A run is as many steps -/

/-- Commands added are determined by the events added, so equal traces have equal command lists. -/
theorem Outputs.cmds_congr {s u s' u' : State} {ev ev' : List OutEvent} (h : Outputs s ev s') (h' : Outputs u ev' u')
    (hc : s.cmds = u.cmds) (ht : s.trace = u.trace) (ht' : s'.trace = u'.trace) : s'.cmds = u'.cmds := by
  rw [h.trace_eq, h'.trace_eq, ht] at ht'
  rw [h.cmds_eq, h'.cmds_eq, hc, List.append_cancel_left ht']

theorem State.after_setInputs_cmds (s : State) (l : List Input) (e : Input) :
    ((s.setInputs l).after e).cmds = (s.after e).cmds := by
  cases e with
  | reset | cycleStart => rfl
  | byte b =>
    obtain ⟨ev, hev⟩ := (s.setInputs l).after_byte_outputs b
    obtain ⟨ev', hev'⟩ := s.after_byte_outputs b
    have halike := ((State.DecodesAlike.refl s).setInputs l s.inputs).after (.byte b)
    exact hev.cmds_congr hev' rfl rfl halike.same_trace

/-- The inputs that are still pending make no difference to what an input does (log entry 1). -/
theorem State.after_setInputs (s : State) (l : List Input) (e : Input) :
    (s.setInputs l).after e = (s.after e).setInputs l := by
  have halike := ((State.DecodesAlike.refl s).setInputs l s.inputs).after e
  exact State.eq_of_fields halike.same_params halike.same_fstate halike.same_buf halike.same_colour
    (s.after_setInputs_cmds l e) ((s.setInputs l).after_inputs e) halike.same_trace

theorem core_run_step {s t : State} (n : Nat) (h : step s = .next t) :
    Host.Core.run Sys2Proof.core (n + 1) s = Host.Core.run Sys2Proof.core n t := by
  have hcore : Sys2Proof.core.step s = .next t := h
  simp only [Host.Core.run, hcore]

/-- Settles O45: each step takes the next of the inputs, and what it does is the same with none pending. -/
theorem runsAreSteps : Obligations.RunsAreSteps := by
  intro es
  induction es with
  | nil => exact fun _ => rfl
  | cons e es ih =>
    intro s
    have hstep : step (s.setInputs (e :: es)) = .next ((s.after e).setInputs es) :=
      (step_after (State.setInputs_inputs s _)).trans (congrArg Host.Outcome.next (s.after_setInputs es e))
    have hrun : runInputs (e :: es) (s.setInputs []) = runInputs es ((s.after e).setInputs []) := by
      rw [runInputs_cons (exec_event e _), State.after_setInputs]
    exact (core_run_step es.length hstep).trans ((ih (s.after e)).trans hrun.symm)

/-! ### Reset in mid-stream -/

/-- What no input writes, no run writes. -/
theorem foldl_after_keeps {α : Type} {field : State → α} (h : ∀ s e, field (s.after e) = field s) (es : List Input)
    (s : State) : field (es.foldl State.after s) = field s := by
  induction es generalizing s with
  | nil => rfl
  | cons e es ih => rw [List.foldl_cons, ih, h]

/-- Settles O54: no input of the run writes the parameters or the inputs pending after it, and a Reset writes the rest. -/
theorem resetForgetsTheStream : Obligations.ResetForgetsTheStream := by
  intro es s
  refine ⟨_, _, runInputs_eq_foldl es s, runInputs_eq_foldl (es ++ [.reset]) s, ?_⟩
  rw [List.foldl_append, List.foldl_cons, List.foldl_nil, State.after_reset,
    foldl_after_keeps State.after_params, foldl_after_keeps State.after_inputs]

/-! ### The result of a cycle -/

/-- A stream of bytes outputs at most one event each, and adds their commands to `CMDS` (R69, R90). -/
theorem runBytes_outputs (raw : List Byte) (s : State) : ∃ (t : State) (ev : List OutEvent),
    runBytes raw s = .next t ∧ t.trace = s.trace ++ ev ∧ t.cmds = s.cmds ++ commandsOf ev ∧
      ev.length ≤ raw.length := by
  induction raw generalizing s with
  | nil => exact ⟨s, [], rfl, (List.append_nil _).symm, (List.append_nil _).symm, Nat.le_refl 0⟩
  | cons b raw ih =>
    obtain ⟨ev, hev⟩ := s.after_byte_outputs b
    obtain ⟨t, more, hrun, htrace, hcmds, hlen⟩ := ih (s.after (.byte b))
    refine ⟨t, ev ++ more, (runBytes_cons (exec_byte b s)).trans hrun, ?_, ?_, ?_⟩
    · rw [htrace, hev.trace_eq, List.append_assoc]
    · rw [hcmds, hev.cmds_eq, commandsOf_append, List.append_assoc]
    · have hone := hev.length_le
      rw [List.length_append, List.length_cons]
      omega

/-- Settles O51: the cycle's bytes run from an empty `CMDS`. -/
theorem cycleResultIsItsCommandEvents : Obligations.CycleResultIsItsCommandEvents :=
  fun raw s => runBytes_outputs raw (s.setCmds [])

/-! ### Error isolation -/

theorem ParseOutcome.events_eq_err {o : ParseOutcome} {e : ErrorEvent} (h : events o = [.err e]) : o = .err e := by
  cases o with
  | err _ => simpa [events] using h
  | ignored | cmd _ => simp [events] at h

theorem ParseAnswer.eq_of_error {p : List Byte} {C : Colour} {r : ParseOutcome × Colour} {e : ErrorEvent}
    (h : ParseAnswer p C r) (he : r.1 = .err e) : r = parseError e C := by
  cases h with
  | error => cases he; rfl
  | ignored | command => cases he

/-- A packet whose form adds an error event raises it and does nothing more (R71, R106). -/
theorem exec_packet_of_error {p : List Byte} {s t : State} {e : ErrorEvent}
    (h : exec (decode (.packet p)) s = .next t) (ht : t.trace = s.trace ++ [.err e]) :
    exec (decode (.packet p)) s = .next (s.raise e) := by
  rw [next_inj ((exec_decode_packet p s).symm.trans h), State.deliver_trace] at ht
  have herr := ParseOutcome.events_eq_err (List.append_cancel_left ht)
  exact exec_parseError (by rw [exec_decode_packet, (ParseAnswer.of_parse p s.colour).eq_of_error herr])

/-- Settles O50: the frame runs its packet's form, which raises the error and leaves the state as it was. -/
theorem malformedFrameIsIsolated : Obligations.MalformedFrameIsIsolated := by
  intro s t payload e es hf hbuf hne hlen hexec htrace
  have hrun : runBytes (frame payload) s = .next (s.raise e) := by
    rw [framedPayloadIsParsedAsSent s payload hf hbuf hne hlen, exec_packet_of_error hexec htrace]
  exact runInputs_append hrun

/-! ### A byte, case by case -/

/-- Settles O16: a byte runs the row that `FSTATE` and the byte choose, and each row's whole next state is the one that
the framer's rules give. -/
theorem byteStepCaseByCase : Obligations.ByteStepCaseByCase := by
  intro s b
  refine ⟨?endEmpty, ?endPacket, ?escape, ?data, ?dataFull, ?escapedEnd, ?escapedEsc, ?escapedFull, ?badEscape⟩
  case endEmpty =>
    rintro hf rfl h
    exact (exec_byte_frameEnd hf).trans ((frameEndHandsOverTheBuffer s hf).1 h)
  case endPacket =>
    rintro hf rfl h
    exact (exec_byte_frameEnd hf).trans (exec_frmEnd_packet h)
  case escape =>
    rintro hf rfl
    exact (exec_byte_frameEsc hf).trans (exec_frmEsc s)
  case data => exact fun hf hEnd hEsc h => (exec_byte_data hf hEnd hEsc).trans (exec_frmData_room h)
  case dataFull => exact fun hf hEnd hEsc h => (exec_byte_data hf hEnd hEsc).trans (exec_frmData_full hf h)
  case escapedEnd =>
    rintro hf rfl h
    exact (exec_byte_frameEscEnd hf).trans ((escapedEndIsAppended s hf).1 h)
  case escapedEsc =>
    rintro hf rfl h
    exact (exec_byte_frameEscEsc hf).trans ((escapedEscapeIsAppended s hf).1 h)
  case escapedFull =>
    rintro hf (rfl | rfl) h
    · exact (exec_byte_frameEscEnd hf).trans ((escapedEndIsAppended s hf).2 h)
    · exact (exec_byte_frameEscEsc hf).trans ((escapedEscapeIsAppended s hf).2 h)
  case badEscape => exact fun hf hEnd hEsc => (exec_byte_badEscape hf hEnd hEsc).trans (exec_frmXbad b s)

end Sys2Proof.Machine

/-! Family 60_exceptions: the byte that raises an error, what it leaves, and why it raises that kind (R106). -/

namespace Sys2Proof.Machine

/-! ### Which kinds the parser raises -/

/-- The kinds that a parse answers are the parser's own (R98): of the branches of the dispatch procedure (R72), those
that answer an error name its kind. -/
theorem parse_error_not_fromFramer {p : List Byte} {C : Colour} {e : ErrorEvent} (h : (parse p C).1 = .err e) :
    e.fromFramer = false := by
  unfold parse at h
  split_ifs at h
  all_goals cases h
  all_goals rfl

/-! ### Why a byte raises an error, and what it leaves -/

/-- Why byte `b` raises an error in state `s`, by the kind of the error (R106). -/
inductive ErrorCause (s : State) (b : Byte) : ErrorEvent → Prop
  /-- No escape code after an escape (R68). -/
  | badEscape (hf : s.fstate = .escaped) (hEnd : b ≠ frameEscEnd) (hEsc : b ≠ frameEscEsc) :
      ErrorCause s b (.unknownEscapedByte b)
  /-- An append, of the byte or of the literal it escapes, to a buffer at `CAP` (R62; log entry 24). -/
  | overflow (hcap : s.buf.length = s.params.cap)
      (hb : s.fstate = .normal ∧ b ≠ frameEnd ∧ b ≠ frameEsc ∨
        s.fstate = .escaped ∧ (b = frameEscEnd ∨ b = frameEscEsc)) :
      ErrorCause s b .bufferOverflow
  /-- The frame end of a packet that the parser rejects (R90). -/
  | parser (e : ErrorEvent) (he : e.fromFramer = false) (hf : s.fstate = .normal) (hb : b = frameEnd)
      (hbuf : s.buf ≠ []) : ErrorCause s b e

/-- What every error leaves (R106): an empty buffer, `FSTATE` Normal and the error event; the other fields are kept. -/
def State.recover (s : State) (e : ErrorEvent) : State := ((s.setFstate .normal).setBuf []).raise e

/-- An append that raises an error is one at `CAP` (R62). -/
theorem settle_append_error {v : Byte} {s : State} {e : ErrorEvent}
    (h : (settle (append v s)).trace = s.trace ++ [.err e]) :
    s.buf.length = s.params.cap ∧ e = .bufferOverflow ∧ settle (append v s) = s.recover e := by
  by_cases hcap : s.buf.length = s.params.cap
  · rw [settle_append_full hcap] at h ⊢
    cases List.append_cancel_left h
    exact ⟨hcap, rfl, rfl⟩
  · rw [settle_append_room hcap] at h
    exact absurd h (ne_append_singleton _ _)

/-- A frame end that raises an error hands over a packet that the parser rejects (R63, R71). -/
theorem settle_frmEnd_error {s : State} {e : ErrorEvent} (hf : s.fstate = .normal)
    (h : (settle (frmEnd s)).trace = s.trace ++ [.err e]) :
    s.buf ≠ [] ∧ e.fromFramer = false ∧ settle (frmEnd s) = s.recover e := by
  by_cases hbuf : s.buf = []
  · rw [frmEnd_empty hbuf] at h
    exact absurd h (ne_append_singleton _ _)
  · rw [frmEnd_packet hbuf, settle_packet, State.setBuf_colour] at h ⊢
    rw [State.deliver_trace] at h
    have herr := ParseOutcome.events_eq_err (List.append_cancel_left h)
    refine ⟨hbuf, parse_error_not_fromFramer herr, ?_⟩
    rw [(ParseAnswer.of_parse s.buf s.colour).eq_of_error herr, State.recover, State.setFstate_of_eq hf]
    rfl

/-- A byte that raises an error recovers, and has one of the three causes (R106). -/
theorem feed_error {b : Byte} {s : State} {e : ErrorEvent} (h : (settle (feed b s)).trace = s.trace ++ [.err e]) :
    settle (feed b s) = s.recover e ∧ ErrorCause s b e := by
  obtain ⟨hf, hb, r⟩ | ⟨-, -, r⟩ | ⟨hf, hEnd, hEsc, r⟩ | ⟨hf, hb, r⟩ | ⟨hf, hb, r⟩ | ⟨hf, hEnd, hEsc, r⟩ :=
    feed_cases b s <;> rw [r] at h ⊢
  · obtain ⟨hbuf, he, hrec⟩ := settle_frmEnd_error hf h
    exact ⟨hrec, .parser e he hf hb hbuf⟩
  · exact absurd h (ne_append_singleton _ _)
  · obtain ⟨hcap, rfl, hrec⟩ := settle_append_error h
    exact ⟨hrec, .overflow hcap (.inl ⟨hf, hEnd, hEsc⟩)⟩
  · obtain ⟨hcap, rfl, hrec⟩ := settle_append_error (s := s.setFstate .normal) h
    exact ⟨hrec, .overflow hcap (.inr ⟨hf, .inl hb⟩)⟩
  · obtain ⟨hcap, rfl, hrec⟩ := settle_append_error (s := s.setFstate .normal) h
    exact ⟨hrec, .overflow hcap (.inr ⟨hf, .inr hb⟩)⟩
  · cases List.append_cancel_left h
    exact ⟨rfl, .badEscape hf hEnd hEsc⟩

/-! ### A step that raises an error -/

/-- A step that raises an error takes a byte that has a cause for it, and recovers. -/
theorem step_error {s t : State} {e : ErrorEvent} (h : step s = .next t) (ht : t.trace = s.trace ++ [.err e]) :
    ∃ b es, s.inputs = .byte b :: es ∧ t = (s.setInputs es).recover e ∧ ErrorCause (s.setInputs es) b e := by
  obtain ⟨-, rfl⟩ | ⟨es, -, rfl⟩ | ⟨es, -, rfl⟩ | ⟨b, es, hin, rfl⟩ := step_next_cases h
  · exact absurd ht (ne_append_singleton _ _)
  · exact absurd ht (ne_append_singleton _ _)
  · exact absurd ht (ne_append_singleton _ _)
  · obtain ⟨hrec, hcause⟩ := feed_error (s := s.setInputs es) ht
    exact ⟨b, es, hin, hrec, hcause⟩

/-- Settles O42: the recovery is the same for every error, and the kind tells the cause. -/
theorem errorsRecoverAndArePrecise : Obligations.ErrorsRecoverAndArePrecise := by
  intro s t e h ht
  obtain ⟨b, es, hin, rfl, hcause⟩ := step_error h ht
  have hhead : s.inputs.head? = some (.byte b) := by rw [hin]; rfl
  refine ⟨rfl, rfl, rfl, rfl, ?_⟩
  cases hcause with
  | badEscape hf hEnd hEsc =>
    refine ⟨?_, nofun, fun hcode => absurd (by simp [ErrorEvent.code]) hcode⟩
    rintro _ ⟨⟩
    exact ⟨hf, hhead, hEnd, hEsc⟩
  | overflow hcap hb => exact ⟨nofun, fun _ => ⟨hcap, b, hhead, hb⟩, fun hcode => absurd (by decide) hcode⟩
  | parser e he hf hb hbuf =>
    subst hb
    refine ⟨?_, ?_, fun _ => ⟨hf, hhead, hbuf⟩⟩
    · rintro _ rfl
      cases he
    · rintro rfl
      cases he

end Sys2Proof.Machine

/-! Family 70_reset_and_hazards: a frame end resynchronises the framer from every state (R117); frames and cycle starts
leave the block between frames, where the colour context outlives every payload that writes none (R120); and the packet
of every drawing form fits a buffer of 484 bytes (R122). -/

namespace Sys2Proof.Machine

/-! ### A frame end heals the framer -/

/-- After a byte `0xC0` the framer is in Normal with an empty buffer: in Normal the byte ends the frame (R63), and in
Escaped it is a bad escape, from which the framer recovers (R68). -/
theorem feed_frameEnd_resyncs (s : State) :
    (feed frameEnd s).1.fstate = .normal ∧ (feed frameEnd s).1.buf = [] := by
  cases hf : s.fstate with
  | normal =>
    have hrow : feed frameEnd s = frmEnd s := by simp [feed, hf]
    rw [hrow]
    exact ⟨(frmEnd_fstate s).trans hf, frmEnd_buf s⟩
  | escaped =>
    have hEnd : frameEnd ≠ frameEscEnd := by decide
    have hEsc : frameEnd ≠ frameEscEsc := by decide
    have hrow : feed frameEnd s = framerError (.unknownEscapedByte frameEnd) s := by
      simp [feed, hf, hEnd, hEsc, frmXbad]
    rw [hrow]
    exact ⟨rfl, rfl⟩

/-- Settles O47: the state that the frame end leaves is one from which a framed payload is parsed as sent. -/
theorem framingHealsAtAFrameEnd : Obligations.FramingHealsAtAFrameEnd := by
  intro s payload hne hlen
  obtain ⟨hf, hbuf⟩ := feed_frameEnd_resyncs s
  refine ⟨s.after (.byte frameEnd), exec_byte frameEnd s, (runBytes_cons (exec_byte frameEnd s)).trans ?_⟩
  refine framedPayloadIsParsedAsSent (s.after (.byte frameEnd)) payload ?_ ?_ hne ?_
  · exact (settle_fstate _).trans hf
  · exact (settle_buf _).trans hbuf
  · rwa [State.after_params]

/-! ### Frames and cycle starts, one after another -/

/-- The block is between two frames of a session with parameters `P`, and its colour context is `C`. -/
structure State.BetweenFrames (P : Params) (C : Colour) (s : State) : Prop where
  normal : s.fstate = .normal
  empty : s.buf = []
  params_eq : s.params = P
  colour_eq : s.colour = C

section
variable {s : State} {P : Params} {C : Colour} (h : s.BetweenFrames P C)
include h

theorem State.BetweenFrames.runInputs_payload {p : List Byte} (hp : p ≠ [] ∧ p.length ≤ P.cap) :
    runInputs (itemInputs (some p)) s = exec (decode (.packet p)) s :=
  framedPayloadIsParsedAsSent s p h.normal h.empty hp.1 (h.params_eq ▸ hp.2)

/-- Delivering a parse's outcome writes no framer state (R90). -/
theorem State.BetweenFrames.deliver (r : ParseOutcome × Colour) : (s.deliver r).BetweenFrames P r.2 :=
  ⟨(s.deliver_fstate r).trans h.normal, (s.deliver_buf r).trans h.empty, (s.deliver_params r).trans h.params_eq,
    s.deliver_colour r⟩

theorem State.BetweenFrames.setCmds (l : List Command) : (s.setCmds l).BetweenFrames P C :=
  ⟨h.normal, h.empty, h.params_eq, h.colour_eq⟩

end

/-- Only a rectangle packet of length 8 or 12 writes the colour context (R87). -/
theorem parse_keeps_colour {p : List Byte} (C : Colour)
    (hp : p.head? = some tagRectangle → p.length ≠ 8 ∧ p.length ≠ 12) : (parse p C).2 = C := by
  have h := ParseColour.of_parse p C
  generalize parse p C = r at h ⊢
  cases h with
  | keeps => rfl
  | rect8 ht hn => exact absurd hn (hp ht).1
  | rect12 ht hn => exact absurd hn (hp ht).2

/-- The payload can be sent in a session with parameters `P`, and is no rectangle that writes the colour context. -/
def KeepsContext (P : Params) (p : List Byte) : Prop :=
  (p ≠ [] ∧ p.length ≤ P.cap) ∧ (p.head? = some tagRectangle → p.length ≠ 8 ∧ p.length ≠ 12)

/-- A cycle start, or the frame of a payload that writes no colour, ends between frames with the same colour context
(R87, R91). -/
theorem State.BetweenFrames.runInputs_item {s : State} {P : Params} {C : Colour} (h : s.BetweenFrames P C)
    {item : Option (List Byte)} (hitem : ∀ p, some p = item → KeepsContext P p) :
    ∃ t, runInputs (itemInputs item) s = .next t ∧ t.BetweenFrames P C := by
  cases item with
  | none => exact ⟨_, rfl, h.setCmds []⟩
  | some p =>
    obtain ⟨hfit, hkeep⟩ := hitem p rfl
    have hcolour : (parse p s.colour).2 = C := (parse_keeps_colour s.colour hkeep).trans h.colour_eq
    exact ⟨_, (h.runInputs_payload hfit).trans (exec_decode_packet p s), hcolour ▸ h.deliver _⟩

/-- So does any sequence of such items. -/
theorem State.BetweenFrames.runInputs_items {P : Params} {C : Colour} (items : List (Option (List Byte))) {s : State}
    (h : s.BetweenFrames P C) (hitems : ∀ p, some p ∈ items → KeepsContext P p) :
    ∃ t, runInputs (items.flatMap itemInputs) s = .next t ∧ t.BetweenFrames P C := by
  induction items generalizing s with
  | nil => exact ⟨s, rfl, h⟩
  | cons item items ih =>
    obtain ⟨u, hu, hbu⟩ := h.runInputs_item fun p hp => hitems p (hp ▸ List.mem_cons_self)
    obtain ⟨t, ht, hbt⟩ := ih hbu fun p hp => hitems p (List.mem_cons_of_mem _ hp)
    exact ⟨t, by rw [List.flatMap_cons, runInputs_append hu, ht], hbt⟩

/-! ### The last colour is the next short rectangle's -/

/-- A RECT8 or a RECT12 delivers its own colour as the new context (R79, R81). -/
theorem exec_colouredRectangle {i : Instr} {col : Colour} (s : State) (hi : CarriesColour i col) :
    ∃ o, exec i s = .next (s.deliver (o, col)) := by
  obtain ⟨pos, rfl⟩ | ⟨pos, size, rfl⟩ := hi
  · exact ⟨_, rfl⟩
  · exact ⟨_, rfl⟩

/-- A RECT5 or a RECT9 draws with the context's colour and delivers it back (R78, R80). -/
theorem exec_shortRectangle {i : Instr} {q : Position} {area : Size} (s : State)
    (hi : i = .cmdRect5 q ∧ area = defaultSize ∨ i = .cmdRect9 q area) :
    exec i s = .next (s.deliver (.cmd (.drawRectangle q area s.colour), s.colour)) := by
  obtain ⟨rfl, rfl⟩ | rfl := hi
  · rfl
  · rfl

/-- Settles O53: the first frame sets the context, the items in between keep it, and the last frame draws with it. -/
theorem shortRectangleTakesTheLastColour : Obligations.ShortRectangleTakesTheLastColour := by
  intro s first last between pos q size area col hf hbuf hfit hfirst hkeep hlast
  have hs : s.BetweenFrames s.params s.colour := ⟨hf, hbuf, rfl, rfl⟩
  have hcarries : CarriesColour (decode (.packet first)) col := hfirst.imp (⟨pos, ·⟩) (⟨pos, size, ·⟩)
  obtain ⟨o, hexec⟩ := exec_colouredRectangle s hcarries
  have hrun := (hs.runInputs_payload (hfit first (.inl rfl))).trans hexec
  obtain ⟨u, hu, hbu⟩ := (hs.deliver (o, col)).runInputs_items between
    fun p hp => ⟨hfit p (.inr (.inr hp)), hkeep p hp⟩
  refine ⟨u.deliver (.cmd (.drawRectangle q area col), col), ?_, u.deliver_colour _, ?_⟩
  · rw [runInputs_append hrun, runInputs_append hu, hbu.runInputs_payload (hfit last (.inr (.inl rfl))),
      exec_shortRectangle u hlast, hbu.colour_eq]
  · rw [State.deliver_cmds]
    exact List.getLast?_concat

/-! ### The packets that draw fit 484 bytes -/

@[simp] theorem posBytes_length (q : Position) : (posBytes q).length = 4 := rfl

@[simp] theorem sizeBytes_length (z : Size) : (sizeBytes z).length = 4 := rfl

@[simp] theorem colourBytes_length (c : Colour) : (colourBytes c).length = 3 := rfl

/-- The frame of a well-formed instruction's packet, if it fits, runs that instruction (R70). -/
theorem runBytes_frame_encode {s : State} {i : Instr} {p : List Byte} (hf : s.fstate = .normal) (hbuf : s.buf = [])
    (hwf : i.wf = true) (he : encode i = .packet p) (hp : p ≠ [] ∧ p.length ≤ s.params.cap) :
    runBytes (frame p) s = exec i s := by
  have hround : decode (.packet p) = i := he ▸ decodeOfEncode i hwf
  rw [framedPayloadIsParsedAsSent s p hf hbuf hp.1 hp.2, hround]

/-- Settles O55: a waveform's packet has 484 bytes at most, the other forms' twelve. -/
theorem validFormsFitTheBuffer : Obligations.ValidFormsFitTheBuffer := by
  intro s i p hf hbuf hcap hwf he hform
  have hp : p ≠ [] ∧ p.length ≤ 484 := by
    obtain ⟨c, l, rfl⟩ | ⟨c, q, f, g, rfl⟩ | ⟨q, rfl⟩ | ⟨q, c, rfl⟩ | ⟨q, z, rfl⟩ | ⟨q, z, c, rfl⟩ := hform
    case inl =>
      obtain ⟨-, h484⟩ := waveLengthOk_iff.mp hwf
      cases he
      refine ⟨nofun, ?_⟩
      rw [List.length_cons, List.length_append, colourBytes_length]
      omega
    all_goals cases he; exact ⟨nofun, by simp⟩
  exact runBytes_frame_encode hf hbuf hwf he ⟨hp.1, hp.2.trans hcap⟩

end Sys2Proof.Machine
